-- ==== Sys2Proof/Word.lean ====
section
/-! DEFINITION. The words of the UXR FrameCodec block: bytes, the two byte-indexed objects it handles
(20_memory.md R25, R26) and the two float patterns (42_value.md R80, R81). -/

namespace Sys2Proof

/-- A byte, a number 0 to 255 (R30). -/
abbrev Byte := BitVec 8

/-- A binary32 bit pattern (R80). -/
abbrev F32 := BitVec 32

/-- A binary64 bit pattern (R81), as `cmd_fval` and `rsp_fval` carry it. -/
abbrev F64 := BitVec 64

/-- A payload: exactly 8 bytes `B[0]` to `B[7]`, `B[0]` first (R25). -/
structure Payload where
  b0 : Byte
  b1 : Byte
  b2 : Byte
  b3 : Byte
  b4 : Byte
  b5 : Byte
  b6 : Byte
  b7 : Byte
  deriving DecidableEq, Repr

/-- A value field: exactly 4 bytes `V[0]` to `V[3]`, `V[0]` first (R26). -/
structure ValueField where
  v0 : Byte
  v1 : Byte
  v2 : Byte
  v3 : Byte
  deriving DecidableEq, Repr

/-- Eight zero bytes. -/
def Payload.zero : Payload := ⟨0, 0, 0, 0, 0, 0, 0, 0⟩

/-- Four zero bytes. -/
def ValueField.zero : ValueField := ⟨0, 0, 0, 0⟩

end Sys2Proof
end

