-- ==== Sys2Proof/Machine/Operands.lean ====
section
/-! DEFINITION. Operand assembly: the identifier's fields (30_encoding.md R40 to R42), the payload layouts (R43 to
R47), the value field's byte order (20_memory.md R29) and the 64-bit packing of a payload (00_scope.md R7). -/

namespace Sys2Proof.Machine

/-- `(protocol_number << 20) | (flag << 19) | (dest << 11) | (src << 3) | group`, over the naturals (R40, R62). -/
def idNumber (p f d s g : Nat) : Nat :=
  (p <<< 20) ||| (f <<< 19) ||| (d <<< 11) ||| (s <<< 3) ||| g

/-- The 29-bit identifier of fields that fit (R40). -/
def packId (p f d s g : Nat) : BitVec 29 := BitVec.ofNat 29 (idNumber p f d s g)

/-- `id[28:20]` (R42). -/
def idProtno (id : BitVec 29) : BitVec 9 := id.extractLsb' 20 9
/-- `id[19]` (R42). -/
def idFlag (id : BitVec 29) : BitVec 1 := id.extractLsb' 19 1
/-- `id[18:11]` (R42). -/
def idDest (id : BitVec 29) : BitVec 8 := id.extractLsb' 11 8
/-- `id[10:3]` (R42). -/
def idSrc (id : BitVec 29) : BitVec 8 := id.extractLsb' 3 8
/-- `id[2:0]` (R42). -/
def idGroup (id : BitVec 29) : BitVec 3 := id.extractLsb' 0 3

/-- `be32(u)`: most significant byte first (R29). -/
def be32 (u : BitVec 32) : ValueField :=
  ⟨u.extractLsb' 24 8, u.extractLsb' 16 8, u.extractLsb' 8 8, u.extractLsb' 0 8⟩

/-- `unbe32(V) = V[0] ++ V[1] ++ V[2] ++ V[3]` (R29, R8). -/
def unbe32 (v : ValueField) : BitVec 32 := v.v0 ++ v.v1 ++ v.v2 ++ v.v3

/-- Function code `FC_READ` (R46). -/
def fcRead : Byte := 0x10
/-- Function code `FC_WRITE` (R46). -/
def fcWrite : Byte := 0x03
/-- Type tag `TAG_FLOAT` (R46). -/
def tagFloat : Byte := 0x41
/-- Type tag `TAG_UINT` (R46). -/
def tagUint : Byte := 0x42

/-- A payload from its first four bytes and the value field at offset 4 (R25, R26). -/
def withValue (b0 b1 b2 b3 : Byte) (v : ValueField) : Payload :=
  ⟨b0, b1, b2, b3, v.v0, v.v1, v.v2, v.v3⟩

/-- The value field of a payload: `V[i] = B[4 + i]` (R26). -/
def payloadValue (pl : Payload) : ValueField := ⟨pl.b4, pl.b5, pl.b6, pl.b7⟩

/-- Read request payload (R43). -/
def readRequest (reg : Byte) : Payload := withValue fcRead 0 0 reg .zero

/-- Write request payload around a value field (R44). -/
def writeRequest (reg : Byte) (v : ValueField) : Payload := withValue fcWrite 0 0 reg v

/-- Read response payload (R45). -/
def readResponse (tag e1 e2 e3 : Byte) (v : ValueField) : Payload := withValue tag e1 e2 e3 v

/-- A payload written as one 64-bit number: `B[0]` is bits 63 to 56, `B[7]` bits 7 to 0 (R7, 92 D11). -/
def payloadOfNumber (w : BitVec 64) : Payload :=
  ⟨w.extractLsb' 56 8, w.extractLsb' 48 8, w.extractLsb' 40 8, w.extractLsb' 32 8,
    w.extractLsb' 24 8, w.extractLsb' 16 8, w.extractLsb' 8 8, w.extractLsb' 0 8⟩

end Sys2Proof.Machine
end

