-- ==== Sys2Proof/Config.lean ====
section
/-! DEFINITION. What the spec leaves to the implementation (00_scope.md R6, 92_eei_decisions.md "Parameters
left open"): the input port width, the overflow policy, and the two NaN mappings, which are free values.
`LAT` is no parameter of the model: no rule of behaviour depends on it (R135, log entry 11). -/

namespace Sys2Proof.Config

/-- `W_IN`, the width of each multi-bit ENC_ARBID input port (R6, 92 D2; log entry 9). -/
abbrev wIn : Nat := 16

/-- What ENC_F32 does with a finite float that binary32 cannot hold (92 D13). -/
inductive OverflowPolicy where
  /-- RANGE_ERROR with field VALUE: the spec's own value. -/
  | rangeError
  /-- Signed infinity, the alternative D13 names. -/
  | infinity
  deriving DecidableEq, Repr

/-- `F32_OVERFLOW` (92 D13; log entry 10). -/
def f32Overflow : OverflowPolicy := .rangeError

/-- `NAN_NARROW`, the free part (R87): the sign bit and the fraction less 1 of the binary32 NaN that a binary64
NaN narrows to. A binary32 fraction of a NaN is 1 to 2^23 - 1, so every binary32 NaN is possible and nothing
else is. No body: no proof can see a value of it (log entry 5; safe). -/
opaque nanNarrow : F64 → BitVec 1 × Fin (2 ^ 23 - 2 + 1)

/-- `NAN_WIDEN`, the free part (R89): the sign bit and the fraction less 1 of the binary64 NaN that a binary32
NaN widens to. No body (log entry 6; safe). -/
opaque nanWiden : F32 → BitVec 1 × Fin (2 ^ 52 - 2 + 1)

end Sys2Proof.Config
end

