-- ==== Sys2Proof/Syntax.lean ====
section
/-! DEFINITION. The rows of spec/opcode_table.json as one inductive, and what carries them: the command port of
10_state.md R11 and the three wire objects of 20_memory.md R25, R26, R28. -/

namespace Sys2Proof

/-- The value operand of ENC_WRREQ (41_payload.md R73): `cmd_is_float` selects one of two ports, and the port not
selected is ignored. -/
inductive WriteValue where
  /-- `cmd_is_float = 1`: the binary64 pattern on `cmd_fval`. -/
  | float (fval : F64)
  /-- `cmd_is_float = 0`: the unsigned integer on `cmd_uval`. -/
  | uint (uval : BitVec 32)
  deriving DecidableEq, Repr

/-- One constructor per row of the opcode table. The first sixteen are commands, one per code of `cmd_op`
(30_encoding.md R50, R51), each with the operands it reads (R11); the last six are the wire formats (R29, R40,
R43, R44, R45), each with its fields. -/
inductive Instr where
  /-- ENC_ARBID (R61). The four multi-bit operands are naturals: the range check is stated over naturals (R11). -/
  | encArbid (protno : Nat) (flag : BitVec 1) (dest src group : Nat)
  /-- DEC_ARBID (R63). -/
  | decArbid (id : BitVec 29)
  /-- ENC_RDREQ (R71). -/
  | encRdreq (reg : Byte)
  /-- ENC_WRREQ (R73). -/
  | encWrreq (reg : Byte) (value : WriteValue)
  /-- DEC_RDRSP (R75). -/
  | decRdrsp (pl : Payload) (len : BitVec 4)
  /-- ENC_F32 (R90). -/
  | encF32 (fval : F64)
  /-- ENC_U32 (R92). -/
  | encU32 (uval : BitVec 32)
  /-- DEC_F32 (R94). -/
  | decF32 (raw : ValueField)
  /-- DEC_U32 (R96). -/
  | decU32 (raw : ValueField)
  /-- Unassigned code 0x0 (R51). -/
  | illegal0
  /-- Unassigned code 0xA (R51). -/
  | illegalA
  /-- Unassigned code 0xB (R51). -/
  | illegalB
  /-- Unassigned code 0xC (R51). -/
  | illegalC
  /-- Unassigned code 0xD (R51). -/
  | illegalD
  /-- Unassigned code 0xE (R51). -/
  | illegalE
  /-- Unassigned code 0xF (R51). -/
  | illegalF
  /-- ARBID: an arbitration id with its five fields (R40). -/
  | arbid (protno : BitVec 9) (flag : BitVec 1) (dest src : BitVec 8) (group : BitVec 3)
  /-- READ_REQ: a read request payload (R43). -/
  | readReq (reg : Byte)
  /-- WRITE_REQ: a write request payload; `value` is the 32-bit pattern (R44). -/
  | writeReq (reg : Byte) (value : BitVec 32)
  /-- READ_RSP_F32: a read response payload with tag 0x41; `e1` to `e3` are the reserved/echo bytes (R45, R52). -/
  | readRspF32 (e1 e2 e3 : Byte) (value : BitVec 32)
  /-- READ_RSP_U32: a read response payload with tag 0x42 (R45, R52). -/
  | readRspU32 (e1 e2 e3 : Byte) (value : BitVec 32)
  /-- VALUE_FIELD: a 4-byte big-endian value field (R29). -/
  | valueField (value : BitVec 32)
  deriving DecidableEq, Repr

/-- The four formats of the opcode table (30_encoding.md, preamble). -/
inductive Format where
  | cmd
  | arbid
  | payload
  | value
  deriving DecidableEq, Repr

/-- The format the opcode table gives a row. -/
def Instr.format : Instr → Format
  | .arbid _ _ _ _ _ => .arbid
  | .readReq _ => .payload
  | .writeReq _ _ => .payload
  | .readRspF32 _ _ _ _ => .payload
  | .readRspU32 _ _ _ _ => .payload
  | .valueField _ => .value
  | .encArbid _ _ _ _ _ => .cmd
  | .decArbid _ => .cmd
  | .encRdreq _ => .cmd
  | .encWrreq _ _ => .cmd
  | .decRdrsp _ _ => .cmd
  | .encF32 _ => .cmd
  | .encU32 _ => .cmd
  | .decF32 _ => .cmd
  | .decU32 _ => .cmd
  | .illegal0 => .cmd
  | .illegalA => .cmd
  | .illegalB => .cmd
  | .illegalC => .cmd
  | .illegalD => .cmd
  | .illegalE => .cmd
  | .illegalF => .cmd

/-- The command port without its handshake: every port of R11 but `cmd_valid`. -/
structure CmdPort where
  op : BitVec 4
  protno : BitVec Config.wIn
  flag : BitVec 1
  dest : BitVec Config.wIn
  src : BitVec Config.wIn
  group : BitVec Config.wIn
  id : BitVec 29
  reg : Byte
  isFloat : BitVec 1
  fval : F64
  uval : BitVec 32
  pl : Payload
  len : BitVec 4
  raw : ValueField
  deriving DecidableEq, Repr

/-- Every port at zero: no operation (R51), and what an encoded command leaves on the ports it does not use. -/
def CmdPort.zero : CmdPort :=
  ⟨0, 0, 0, 0, 0, 0, 0, 0, 0, 0, 0, .zero, 0, .zero⟩

/-- A wire object carried whole on one port of the block (R16): an identifier (R28), a payload (R25) or a value
field (R26). -/
inductive WireObject where
  | identifier (id : BitVec 29)
  | payload (pl : Payload)
  | value (v : ValueField)
  deriving DecidableEq, Repr

/-- What the decoder reads: the command port, or a wire object. -/
inductive Presented where
  | command (c : CmdPort)
  | wire (o : WireObject)
  deriving DecidableEq, Repr

end Sys2Proof
end

