-- ==== Sys2Proof/WellFormed.lean ====
section
/-! DEFINITION. Which instructions the ports can carry. The types fix every width but that of the four ENC_ARBID
naturals, which must fit their `W_IN`-bit ports (10_state.md R11; 91_not_in_source.md N7). -/

namespace Sys2Proof

/-- A natural that a `W_IN`-bit port can carry (R11). -/
def presentable (n : Nat) : Bool := decide (n < 2 ^ Config.wIn)

/-- The instruction can be presented to the block. An operand too wide for its identifier FIELD is well formed (it
is what RangeError is for, R61); one too wide for its PORT is not (N7). -/
def Instr.wf : Instr → Bool
  | .encArbid p _ d s g => presentable p && presentable d && presentable s && presentable g
  | .decArbid _ => true
  | .encRdreq _ => true
  | .encWrreq _ _ => true
  | .decRdrsp _ _ => true
  | .encF32 _ => true
  | .encU32 _ => true
  | .decF32 _ => true
  | .decU32 _ => true
  | .illegal0 => true
  | .illegalA => true
  | .illegalB => true
  | .illegalC => true
  | .illegalD => true
  | .illegalE => true
  | .illegalF => true
  | .arbid _ _ _ _ _ => true
  | .readReq _ => true
  | .writeReq _ _ => true
  | .readRspF32 _ _ _ _ => true
  | .readRspU32 _ _ _ _ => true
  | .valueField _ => true

end Sys2Proof
end

