-- ==== Sys2Proof/Decode.lean ====
section
/-! DEFINITION. The decoder and the encoder. A command is decoded from the command port: its only decoded field is
`cmd_op[3:0]`, the operands are separate signals (30_encoding.md R50, R51). A wire object is decoded from its own
bits by the layouts of R29, R40, R43 to R45. -/

namespace Sys2Proof

/-- Why bits are no instruction. -/
inductive Reject where
  /-- A payload of none of the four layouts (another tag R53, or a request with a byte off its layout). Only the
  naming fails: the block itself takes any payload (R53). -/
  | noPayloadFormat
  /-- A table word of a width that no row has. -/
  | noSuchWidth
  /-- A table word with a bit set above its row's width. -/
  | bitsAboveWidth
  deriving DecidableEq, Repr

/-- The command on the port, by `cmd_op` (R50, R51). An operation sees only the ports listed for it (R11). -/
def decodeCommand (c : CmdPort) : Instr :=
  match c.op.toNat with
  | 0x0 => .illegal0
  | 0x1 => .encArbid c.protno.toNat c.flag c.dest.toNat c.src.toNat c.group.toNat
  | 0x2 => .decArbid c.id
  | 0x3 => .encRdreq c.reg
  | 0x4 => .encWrreq c.reg (if c.isFloat = 1 then .float c.fval else .uint c.uval)
  | 0x5 => .decRdrsp c.pl c.len
  | 0x6 => .encF32 c.fval
  | 0x7 => .encU32 c.uval
  | 0x8 => .decF32 c.raw
  | 0x9 => .decU32 c.raw
  | 0xA => .illegalA
  | 0xB => .illegalB
  | 0xC => .illegalC
  | 0xD => .illegalD
  | 0xE => .illegalE
  | _ => .illegalF

/-- An identifier: every 29-bit value is one (R40, R42). -/
def decodeIdentifier (id : BitVec 29) : Instr :=
  .arbid (Machine.idProtno id) (Machine.idFlag id) (Machine.idDest id) (Machine.idSrc id) (Machine.idGroup id)

/-- A payload, by byte 0 and, in a request, its zero bytes (R43, R44, R45; the table's match and mask). -/
def decodePayload (pl : Payload) : Except Reject Instr :=
  if pl.b0 = Machine.fcRead ∧ pl.b1 = 0 ∧ pl.b2 = 0 ∧ Machine.payloadValue pl = .zero then
    .ok (.readReq pl.b3)
  else if pl.b0 = Machine.fcWrite ∧ pl.b1 = 0 ∧ pl.b2 = 0 then
    .ok (.writeReq pl.b3 (Machine.unbe32 (Machine.payloadValue pl)))
  else if pl.b0 = Machine.tagFloat then
    .ok (.readRspF32 pl.b1 pl.b2 pl.b3 (Machine.unbe32 (Machine.payloadValue pl)))
  else if pl.b0 = Machine.tagUint then
    .ok (.readRspU32 pl.b1 pl.b2 pl.b3 (Machine.unbe32 (Machine.payloadValue pl)))
  else .error .noPayloadFormat

/-- A wire object by its own layout. -/
def decodeWire : WireObject → Except Reject Instr
  | .identifier id => .ok (decodeIdentifier id)
  | .payload pl => decodePayload pl
  | .value v => .ok (.valueField (Machine.unbe32 v))

/-- The decoder: total on every command port and every wire object. -/
def decode : Presented → Except Reject Instr
  | .command c => .ok (decodeCommand c)
  | .wire o => decodeWire o

/-- A command port that carries only an operation code. -/
def CmdPort.ofOp (op : BitVec 4) : CmdPort := { CmdPort.zero with op := op }

/-- The encoder: what stands on the command port for a command (ports it does not read at zero), or the wire
object, written from R50, R51, R40, R43 to R45 and R29. -/
def encode : Instr → Presented
  | .encArbid p f d s g =>
    .command { CmdPort.ofOp 0x1 with
      protno := BitVec.ofNat _ p, flag := f, dest := BitVec.ofNat _ d, src := BitVec.ofNat _ s,
      group := BitVec.ofNat _ g }
  | .decArbid id => .command { CmdPort.ofOp 0x2 with id := id }
  | .encRdreq reg => .command { CmdPort.ofOp 0x3 with reg := reg }
  | .encWrreq reg (.float d) => .command { CmdPort.ofOp 0x4 with reg := reg, isFloat := 1, fval := d }
  | .encWrreq reg (.uint u) => .command { CmdPort.ofOp 0x4 with reg := reg, isFloat := 0, uval := u }
  | .decRdrsp pl len => .command { CmdPort.ofOp 0x5 with pl := pl, len := len }
  | .encF32 d => .command { CmdPort.ofOp 0x6 with fval := d }
  | .encU32 u => .command { CmdPort.ofOp 0x7 with uval := u }
  | .decF32 v => .command { CmdPort.ofOp 0x8 with raw := v }
  | .decU32 v => .command { CmdPort.ofOp 0x9 with raw := v }
  | .illegal0 => .command (CmdPort.ofOp 0x0)
  | .illegalA => .command (CmdPort.ofOp 0xA)
  | .illegalB => .command (CmdPort.ofOp 0xB)
  | .illegalC => .command (CmdPort.ofOp 0xC)
  | .illegalD => .command (CmdPort.ofOp 0xD)
  | .illegalE => .command (CmdPort.ofOp 0xE)
  | .illegalF => .command (CmdPort.ofOp 0xF)
  | .arbid p f d s g => .wire (.identifier (Machine.packId p.toNat f.toNat d.toNat s.toNat g.toNat))
  | .readReq reg => .wire (.payload (Machine.readRequest reg))
  | .writeReq reg u => .wire (.payload (Machine.writeRequest reg (Machine.be32 u)))
  | .readRspF32 e1 e2 e3 u => .wire (.payload (Machine.readResponse Machine.tagFloat e1 e2 e3 (Machine.be32 u)))
  | .readRspU32 e1 e2 e3 u => .wire (.payload (Machine.readResponse Machine.tagUint e1 e2 e3 (Machine.be32 u)))
  | .valueField u => .wire (.value (Machine.be32 u))

/-- The format of what is presented. -/
def Presented.format : Presented → Format
  | .command _ => .cmd
  | .wire (.identifier _) => .arbid
  | .wire (.payload _) => .payload
  | .wire (.value _) => .value

/-- The object a row's word stands for: `w` numbered as the opcode table numbers it (a command is its `cmd_op` with
every operand port zero; a payload is the 64-bit number of R7). Two rows are 32 bits in whole bytes; a word that
fits 29 bits is read as an ARBID, any other as a VALUE_FIELD (log entry 8). -/
def tableWord (nbits w : Nat) : Except Reject Presented :=
  if nbits = 4 ∨ nbits = 8 then
    if w < 2 ^ 4 then .ok (.command (CmdPort.ofOp (BitVec.ofNat 4 w))) else .error .bitsAboveWidth
  else if nbits = 29 then
    if w < 2 ^ 29 then .ok (.wire (.identifier (BitVec.ofNat 29 w))) else .error .bitsAboveWidth
  else if nbits = 32 then
    if w < 2 ^ 29 then .ok (.wire (.identifier (BitVec.ofNat 29 w)))
    else if w < 2 ^ 32 then .ok (.wire (.value (Machine.be32 (BitVec.ofNat 32 w))))
    else .error .bitsAboveWidth
  else if nbits = 64 then
    if w < 2 ^ 64 then .ok (.wire (.payload (Machine.payloadOfNumber (BitVec.ofNat 64 w))))
    else .error .bitsAboveWidth
  else .error .noSuchWidth

/-- The instruction the decoder reads from a row's word. -/
def decodeTableWord (nbits w : Nat) : Option Instr :=
  match tableWord nbits w with
  | .ok p => (decode p).toOption
  | .error _ => none

end Sys2Proof
end

