-- ==== Sys2Proof/Machine/State.lean ====
section
/-! DEFINITION. The state of the block (10_state.md R12, R13, R22), the levels of its input signals (R11, R12), what
the user does next, and the results and errors of a command. -/

namespace Sys2Proof.Machine

/-- A field that RANGE_ERROR can name (60_exceptions.md R102). `flag` is in the numbering and never raised. -/
inductive Field where
  | protno
  | flag
  | dest
  | src
  | group
  | value
  deriving DecidableEq, Repr

/-- The errors of the block (R100, R101): they are responses, not stops of the machine (R109). -/
inductive Err where
  /-- RANGE_ERROR, the source's `RangeError` (R103). -/
  | range (field : Field)
  /-- MALFORMED_FRAME, the source's `MalformedFrame` (R104). -/
  | malformedFrame
  /-- ILLEGAL_OP (R106). -/
  | illegalOp
  deriving DecidableEq, Repr

/-- What an operation that ends with `ok` writes, one case per operation (R14: a response is a sum type). -/
inductive Result where
  /-- ENC_ARBID. -/
  | id (id : BitVec 29)
  /-- DEC_ARBID. -/
  | fields (protno : BitVec 9) (flag : BitVec 1) (dest src : BitVec 8) (group : BitVec 3)
  /-- ENC_RDREQ. -/
  | readPayload (pl : Payload)
  /-- ENC_WRREQ. -/
  | writePayload (pl : Payload)
  /-- DEC_RDRSP. -/
  | reply (tag : Byte) (raw : ValueField)
  /-- ENC_F32. -/
  | floatField (raw : ValueField)
  /-- ENC_U32. -/
  | uintField (raw : ValueField)
  /-- DEC_F32. -/
  | float (fval : F64)
  /-- DEC_U32. -/
  | uint (uval : BitVec 32)
  deriving DecidableEq, Repr

/-- The response to a command: `exec` of R15 answers one. -/
inductive Response where
  | ok (r : Result)
  | error (e : Err)
  deriving DecidableEq, Repr

/-- The response register `RSP`: every response field of R13 at its width. -/
structure Rsp where
  status : BitVec 2
  info : BitVec 3
  id : BitVec 29
  protno : BitVec 9
  flag : BitVec 1
  dest : BitVec 8
  src : BitVec 8
  group : BitVec 3
  pl : Payload
  tag : Byte
  raw : ValueField
  fval : F64
  uval : BitVec 32
  deriving DecidableEq, Repr

/-- Every response field zero: status OK, info 0, no result (what R14 leaves in a field no statement writes). -/
def Rsp.zero : Rsp := ⟨0, 0, 0, 0, 0, 0, 0, 0, .zero, 0, .zero, 0, 0⟩

/-- The levels of the input signals (R11, R12). -/
structure Inputs where
  rst : Bool
  cmdValid : Bool
  rspReady : Bool
  cmd : CmdPort
  deriving DecidableEq, Repr

/-- Every input low. -/
def Inputs.idle : Inputs := ⟨false, false, false, .zero⟩

/-- What the user of the block does next (log entry 1): drive the input signals, a rising edge of `clk`, or put a
received wire object on the port that carries it (log entry 7). -/
inductive Stimulus where
  | drive (inp : Inputs)
  | clock
  | present (o : WireObject)
  deriving DecidableEq, Repr

/-- Why the machine stops with a fault. No step does: every error of the block is a response (R109). -/
inductive Fault where
  /-- The response port was read while `rsp_valid = 0`, which is the user's fault (R13, 93 U12). Raised by
  `State.responsePort` alone. Safe: no value is given where the spec gives none. -/
  | responseNotValid
  deriving DecidableEq, Repr

/-- Why the machine gives an instruction no meaning. -/
inductive Refusal where
  /-- Raised by an arm of `exec` whose instruction has no meaning yet. No arm does. Safe: the machine stops where
  the hardware goes on. -/
  | notModelled (mnemonic : String)
  deriving DecidableEq, Repr

/-- The machine: `RSP_VALID` and `RSP`, the whole state of the block (R12, R16 to R22); the levels of its inputs;
and what the user does next, oldest first. An empty list is the clock going on with the inputs held. -/
structure State where
  rspValid : Bool
  rsp : Rsp
  inp : Inputs
  stim : List Stimulus
  deriving DecidableEq, Repr

/-- The machine right after reset: `RSP_VALID = 0` (R22). `RSP` is unspecified by R22 and zero here (log entry 3);
the inputs are the user's and idle here (log entry 1). -/
def State.reset : State := ⟨false, .zero, .idle, []⟩

end Sys2Proof.Machine
end

