-- ==== Sys2Proof/Machine/Flags.lean ====
section
/-! DEFINITION. The block has no status flags (10_state.md R18); the only status is `rsp_status` and `rsp_info` of the
current response (R19), coded here (60_exceptions.md R101, R102). -/

namespace Sys2Proof.Machine

/-- `rsp_status` of an operation that ended with `ok` (R101). -/
def statusOk : BitVec 2 := 0

/-- `rsp_status` of an error (R101). -/
def Err.status : Err → BitVec 2
  | .range _ => 1
  | .malformedFrame => 2
  | .illegalOp => 3

/-- The code of a field, in the argument order (R102). -/
def Field.code : Field → BitVec 3
  | .protno => 0
  | .flag => 1
  | .dest => 2
  | .src => 3
  | .group => 4
  | .value => 5

/-- `rsp_info` of an error: the offending field of a RANGE_ERROR, otherwise 0 (R102). -/
def Err.info : Err → BitVec 3
  | .range f => f.code
  | .malformedFrame => 0
  | .illegalOp => 0

end Sys2Proof.Machine
end

