-- ==== Sys2Proof/Machine/Ops.lean ====
section
/-! DEFINITION. The named operations over the state: the response register and its port, delivery of a result and of an
error (60_exceptions.md R109), the handshake (10_state.md R12) and the input ports. -/

namespace Sys2Proof.Machine

/-- The response fields of a result: status OK, info 0, the operation's own fields, all others zero (R13, R14). -/
def Result.signals : Result → Rsp
  | .id v => { Rsp.zero with status := statusOk, id := v }
  | .fields p f d s g =>
    { Rsp.zero with status := statusOk, protno := p, flag := f, dest := d, src := s, group := g }
  | .readPayload pl => { Rsp.zero with status := statusOk, pl := pl }
  | .writePayload pl => { Rsp.zero with status := statusOk, pl := pl }
  | .reply t v => { Rsp.zero with status := statusOk, tag := t, raw := v }
  | .floatField v => { Rsp.zero with status := statusOk, raw := v }
  | .uintField v => { Rsp.zero with status := statusOk, raw := v }
  | .float d => { Rsp.zero with status := statusOk, fval := d }
  | .uint u => { Rsp.zero with status := statusOk, uval := u }

/-- The response fields of an error: its status, its info, every result field zero (R14, R109). -/
def Err.signals (e : Err) : Rsp := { Rsp.zero with status := e.status, info := e.info }

/-- The response fields of a response. -/
def Response.signals : Response → Rsp
  | .ok r => r.signals
  | .error e => e.signals

/-- `RSP <- r; RSP_VALID <- 1` (R12). -/
def State.hold (s : State) (r : Rsp) : State := { s with rsp := r, rspValid := true }

/-- `RSP_VALID <- 0`; `RSP` keeps its bits (R12; log entry 4). -/
def State.empty (s : State) : State := { s with rspValid := false }

/-- The user drives the input signals (R11). -/
def State.setInp (s : State) (i : Inputs) : State := { s with inp := i }

/-- What the user does after this. -/
def State.setStim (s : State) (l : List Stimulus) : State := { s with stim := l }

/-- An identifier stands on `cmd_id` (R11, R28). -/
def State.putId (s : State) (id : BitVec 29) : State :=
  { s with inp := { s.inp with cmd := { s.inp.cmd with id := id } } }

/-- The 8 bytes of a payload stand on `cmd_pl`, and `cmd_len` is 8 (R11, R25, R75; log entry 7). -/
def State.putPayload (s : State) (pl : Payload) : State :=
  { s with inp := { s.inp with cmd := { s.inp.cmd with pl := pl, len := 8 } } }

/-- A value field stands on `cmd_raw` (R11, R26). -/
def State.putValue (s : State) (v : ValueField) : State :=
  { s with inp := { s.inp with cmd := { s.inp.cmd with raw := v } } }

/-- A wire object stands on the port that carries it. -/
def State.putWire (s : State) : WireObject → State
  | .identifier id => s.putId id
  | .payload pl => s.putPayload pl
  | .value v => s.putValue v

/-- `ok`: the operation ends with status OK and its result (R8, R14). -/
def complete (r : Result) (s : State) : Host.Outcome State Fault Refusal := .next (s.hold r.signals)

/-- `raise`: the error entry of the block (R109). The response carries the error; nothing is saved, no mode or other
state changes, control goes nowhere. There is no return from it (R111). -/
def raise (e : Err) (s : State) : Host.Outcome State Fault Refusal := .next (s.hold e.signals)

/-- A command ends with its response. -/
def answer (r : Response) (s : State) : Host.Outcome State Fault Refusal :=
  match r with
  | .ok x => complete x s
  | .error e => raise e s

/-- `cmd_ready` (R12). -/
def State.cmdReady (s : State) : Bool := !s.rspValid || s.inp.rspReady

/-- `accept = cmd_valid and cmd_ready` (R12). -/
def State.accept (s : State) : Bool := s.inp.cmdValid && s.cmdReady

/-- `take = rsp_valid and rsp_ready` (R12). -/
def State.take (s : State) : Bool := s.rspValid && s.inp.rspReady

/-- The response port: `RSP` while `rsp_valid = 1`; reading it otherwise is the user's fault (R13, 93 U12). -/
def State.responsePort (s : State) : Except Fault Rsp :=
  if s.rspValid then .ok s.rsp else .error .responseNotValid

end Sys2Proof.Machine
end

