-- ==== Sys2Proof/Machine/Arbid.lean ====
section
/-! DEFINITION. ENC_ARBID and DEC_ARBID (40_arbid.md). -/

namespace Sys2Proof.Machine

/-- The response to ENC_ARBID: the operands are checked in argument order, the first that does not fit is named
(R61, R110); the flag is one bit and always fits. -/
def encArbid (p : Nat) (f : BitVec 1) (d s g : Nat) : Response :=
  if p > 0x1FF then .error (.range .protno)
  else if d > 0xFF then .error (.range .dest)
  else if s > 0xFF then .error (.range .src)
  else if g > 7 then .error (.range .group)
  else .ok (.id (packId p f.toNat d s g))

/-- The response to DEC_ARBID (R63). -/
def decArbid (id : BitVec 29) : Response :=
  .ok (.fields (idProtno id) (idFlag id) (idDest id) (idSrc id) (idGroup id))

/-- ENC_ARBID (R61). -/
def execEncArbid (p : Nat) (f : BitVec 1) (d s g : Nat) (st : State) : Host.Outcome State Fault Refusal :=
  answer (encArbid p f d s g) st

/-- DEC_ARBID (R63). -/
def execDecArbid (id : BitVec 29) (st : State) : Host.Outcome State Fault Refusal :=
  answer (decArbid id) st

end Sys2Proof.Machine
end

