-- ==== Sys2Proof/Machine/Illegal.lean ====
section
/-! DEFINITION. The seven unassigned codes of `cmd_op` (30_encoding.md R51): the command is accepted and answered
ILLEGAL_OP, no operand examined, nothing else changed (60_exceptions.md R106, R110). -/

namespace Sys2Proof.Machine

/-- The response to an unassigned code (R106). -/
def illegalOp : Response := .error .illegalOp

/-- Code 0x0 (R51, R106). -/
def execIllegal0 (st : State) : Host.Outcome State Fault Refusal := answer illegalOp st

/-- Code 0xA (R51, R106). -/
def execIllegalA (st : State) : Host.Outcome State Fault Refusal := answer illegalOp st

/-- Code 0xB (R51, R106). -/
def execIllegalB (st : State) : Host.Outcome State Fault Refusal := answer illegalOp st

/-- Code 0xC (R51, R106). -/
def execIllegalC (st : State) : Host.Outcome State Fault Refusal := answer illegalOp st

/-- Code 0xD (R51, R106). -/
def execIllegalD (st : State) : Host.Outcome State Fault Refusal := answer illegalOp st

/-- Code 0xE (R51, R106). -/
def execIllegalE (st : State) : Host.Outcome State Fault Refusal := answer illegalOp st

/-- Code 0xF (R51, R106). -/
def execIllegalF (st : State) : Host.Outcome State Fault Refusal := answer illegalOp st

end Sys2Proof.Machine
end

