-- ==== Sys2Proof/Machine/Float.lean ====
section
/-! DEFINITION. The float formats and the two conversions (42_value.md R80, R81, R86 to R89; formats and rounding from
general knowledge by the spec's own mark, log entry 13). Arithmetic is on naturals, the unbiased exponent an integer,
as in the pseudocode. -/

namespace Sys2Proof.Machine

/-- `s = w[31]` (R80). -/
def sign32 (w : F32) : BitVec 1 := w.extractLsb' 31 1
/-- `e = w[30:23]` (R80). -/
def exp32 (w : F32) : Nat := (w.extractLsb' 23 8).toNat
/-- `f = w[22:0]` (R80). -/
def frac32 (w : F32) : Nat := (w.extractLsb' 0 23).toNat
/-- `S = d[63]` (R81). -/
def sign64 (d : F64) : BitVec 1 := d.extractLsb' 63 1
/-- `E = d[62:52]` (R81). -/
def exp64 (d : F64) : Nat := (d.extractLsb' 52 11).toNat
/-- `F = d[51:0]` (R81). -/
def frac64 (d : F64) : Nat := (d.extractLsb' 0 52).toNat

/-- A binary32 NaN pattern (R80). -/
def isNan32 (w : F32) : Bool := exp32 w == 255 && frac32 w != 0
/-- A binary64 NaN pattern (R81). -/
def isNan64 (d : F64) : Bool := exp64 d == 2047 && frac64 d != 0

/-- `(S << 31) | m`, for a magnitude pattern `m` of 31 bits. -/
def withSign32 (s : BitVec 1) (m : Nat) : F32 := s ++ BitVec.ofNat 31 m
/-- `(s << 63) | m`, for a magnitude pattern `m` of 63 bits. -/
def withSign64 (s : BitVec 1) (m : Nat) : F64 := s ++ BitVec.ofNat 63 m

/-- `NAN_NARROW(d)`: some binary32 NaN, free in sign and fraction (R87, log entry 5). -/
def nanNarrow (d : F64) : F32 :=
  withSign32 (Config.nanNarrow d).1 (0x7F800000 + ((Config.nanNarrow d).2.val + 1))

/-- `NAN_WIDEN(w)`: some binary64 NaN, free in sign and fraction (R89, log entry 6). -/
def nanWiden (w : F32) : F64 :=
  withSign64 (Config.nanWiden w).1 (0x7FF0000000000000 + ((Config.nanWiden w).2.val + 1))

/-- `sig` less its `shift` low bits, rounded to nearest, ties to even (R86). -/
def roundNearestEven (sig shift : Nat) : Nat :=
  let m := sig >>> shift
  let rem := sig &&& ((1 <<< shift) - 1)
  let half := 1 <<< (shift - 1)
  if rem > half ∨ (rem = half ∧ m % 2 = 1) then m + 1 else m

/-- The magnitude pattern of a finite nonzero-exponent binary64, or `none` where it reaches 2^128 (R86). -/
def narrowMagnitude (e f : Nat) : Option Nat :=
  let sig := (1 <<< 52) ||| f
  let x : Int := (e : Int) - 1023
  let shift := if x ≥ -126 then 29 else 29 + (-126 - x).toNat
  if shift ≥ 55 then some 0
  else
    let m := roundNearestEven sig shift
    if x ≥ -126 then
      let w := ((x + 126).toNat <<< 23) + m
      if w ≥ 0x7F800000 then none else some w
    else some m

/-- What a finite float too large for binary32 gives (R86; 92 D13, log entry 10). -/
def narrowOverflow (s : BitVec 1) : Except Err F32 :=
  match Config.f32Overflow with
  | .rangeError => .error (.range .value)
  | .infinity => .ok (withSign32 s 0x7F800000)

/-- `narrow(d)` (R86). -/
def narrow (d : F64) : Except Err F32 :=
  if exp64 d = 2047 ∧ frac64 d ≠ 0 then .ok (nanNarrow d)
  else if exp64 d = 2047 then .ok (withSign32 (sign64 d) 0x7F800000)
  else if exp64 d = 0 then .ok (withSign32 (sign64 d) 0)
  else
    match narrowMagnitude (exp64 d) (frac64 d) with
    | some w => .ok (withSign32 (sign64 d) w)
    | none => narrowOverflow (sign64 d)

/-- `widen(w)` (R88). -/
def widen (w : F32) : F64 :=
  if exp32 w = 255 ∧ frac32 w ≠ 0 then nanWiden w
  else if exp32 w = 255 then withSign64 (sign32 w) 0x7FF0000000000000
  else if exp32 w = 0 ∧ frac32 w = 0 then withSign64 (sign32 w) 0
  else if exp32 w = 0 then
    let k := Nat.log2 (frac32 w)
    withSign64 (sign32 w) (((k + 874) <<< 52) ||| ((frac32 w - (1 <<< k)) <<< (52 - k)))
  else withSign64 (sign32 w) (((exp32 w + 896) <<< 52) ||| (frac32 w <<< 29))

end Sys2Proof.Machine
end

