-- ==== Sys2Proof/Machine/Payloads.lean ====
section
/-! DEFINITION. ENC_RDREQ, ENC_WRREQ and DEC_RDRSP (41_payload.md). -/

namespace Sys2Proof.Machine

/-- The response to ENC_RDREQ (R71). -/
def encRdreq (reg : Byte) : Response := .ok (.readPayload (readRequest reg))

/-- The 32-bit pattern of a write value: the integer itself, or the float narrowed (R73, R47). -/
def writePattern : WriteValue → Except Err (BitVec 32)
  | .float d => narrow d
  | .uint u => .ok u

/-- The response to ENC_WRREQ (R73). -/
def encWrreq (reg : Byte) (v : WriteValue) : Response :=
  match writePattern v with
  | .ok u => .ok (.writePayload (writeRequest reg (be32 u)))
  | .error e => .error e

/-- The response to DEC_RDRSP: the length alone decides (R75); tag and bytes 1 to 3 are not looked at (R52, R53). -/
def decRdrsp (pl : Payload) (len : BitVec 4) : Response :=
  if len.toNat < 8 then .error .malformedFrame else .ok (.reply pl.b0 (payloadValue pl))

/-- ENC_RDREQ (R71). -/
def execEncRdreq (reg : Byte) (st : State) : Host.Outcome State Fault Refusal :=
  answer (encRdreq reg) st

/-- ENC_WRREQ (R73). -/
def execEncWrreq (reg : Byte) (v : WriteValue) (st : State) : Host.Outcome State Fault Refusal :=
  answer (encWrreq reg v) st

/-- DEC_RDRSP (R75). -/
def execDecRdrsp (pl : Payload) (len : BitVec 4) (st : State) : Host.Outcome State Fault Refusal :=
  answer (decRdrsp pl len) st

end Sys2Proof.Machine
end

