-- ==== Sys2Proof/Machine/Values.lean ====
section
/-! DEFINITION. ENC_F32, ENC_U32, DEC_F32 and DEC_U32 (42_value.md). -/

namespace Sys2Proof.Machine

/-- The response to ENC_F32 (R90). -/
def encF32 (d : F64) : Response :=
  match narrow d with
  | .ok u => .ok (.floatField (be32 u))
  | .error e => .error e

/-- The response to ENC_U32 (R92). -/
def encU32 (u : BitVec 32) : Response := .ok (.uintField (be32 u))

/-- The response to DEC_F32 (R94): no rounding to decimals (90_conflicts.md C3). -/
def decF32 (v : ValueField) : Response := .ok (.float (widen (unbe32 v)))

/-- The response to DEC_U32 (R96). -/
def decU32 (v : ValueField) : Response := .ok (.uint (unbe32 v))

/-- ENC_F32 (R90). -/
def execEncF32 (d : F64) (st : State) : Host.Outcome State Fault Refusal := answer (encF32 d) st

/-- ENC_U32 (R92). -/
def execEncU32 (u : BitVec 32) (st : State) : Host.Outcome State Fault Refusal := answer (encU32 u) st

/-- DEC_F32 (R94). -/
def execDecF32 (v : ValueField) (st : State) : Host.Outcome State Fault Refusal := answer (decF32 v) st

/-- DEC_U32 (R96). -/
def execDecU32 (v : ValueField) (st : State) : Host.Outcome State Fault Refusal := answer (decU32 v) st

end Sys2Proof.Machine
end

