-- ==== Sys2Proof/Machine/Wire.lean ====
section
/-! DEFINITION. The six wire formats. They are no operations (00_scope.md R4; the table's own notes): what the spec
gives each is its layout and the port that carries it whole (10_state.md R11, R16; 20_memory.md R25, R26, R28). The
meaning is that the object, laid out so, stands on that input port; no response is written (log entry 7). -/

namespace Sys2Proof.Machine

/-- ARBID: the identifier of R40 stands on `cmd_id`, where DEC_ARBID reads it (R63). -/
def execArbid (p : BitVec 9) (f : BitVec 1) (d s : BitVec 8) (g : BitVec 3) (st : State) :
    Host.Outcome State Fault Refusal :=
  .next (st.putId (packId p.toNat f.toNat d.toNat s.toNat g.toNat))

/-- READ_REQ: the payload of R43 stands on `cmd_pl`, as R76 (a) hands a built payload back. -/
def execReadReq (reg : Byte) (st : State) : Host.Outcome State Fault Refusal :=
  .next (st.putPayload (readRequest reg))

/-- WRITE_REQ: the payload of R44 stands on `cmd_pl` (R76). -/
def execWriteReq (reg : Byte) (u : BitVec 32) (st : State) : Host.Outcome State Fault Refusal :=
  .next (st.putPayload (writeRequest reg (be32 u)))

/-- READ_RSP_F32: the payload of R45 with tag 0x41 stands on `cmd_pl`, where DEC_RDRSP reads it (R75). -/
def execReadRspF32 (e1 e2 e3 : Byte) (u : BitVec 32) (st : State) : Host.Outcome State Fault Refusal :=
  .next (st.putPayload (readResponse tagFloat e1 e2 e3 (be32 u)))

/-- READ_RSP_U32: the payload of R45 with tag 0x42 stands on `cmd_pl` (R75). -/
def execReadRspU32 (e1 e2 e3 : Byte) (u : BitVec 32) (st : State) : Host.Outcome State Fault Refusal :=
  .next (st.putPayload (readResponse tagUint e1 e2 e3 (be32 u)))

/-- VALUE_FIELD: the field of R29 stands on `cmd_raw`, where DEC_F32 and DEC_U32 read it (R94, R96). -/
def execValueField (u : BitVec 32) (st : State) : Host.Outcome State Fault Refusal :=
  .next (st.putValue (be32 u))

end Sys2Proof.Machine
end

