-- ==== Sys2Proof/Machine/Dispatch.lean ====
section
/-! DEFINITION. One arm per constructor of Instr. -/

namespace Sys2Proof.Machine

def exec (i : Instr) (s : State) : Host.Outcome State Fault Refusal :=
  match i with
  | .encArbid p f d r g => Sys2Proof.Machine.execEncArbid p f d r g s
  | .decArbid id => Sys2Proof.Machine.execDecArbid id s
  | .encRdreq reg => Sys2Proof.Machine.execEncRdreq reg s
  | .encWrreq reg v => Sys2Proof.Machine.execEncWrreq reg v s
  | .decRdrsp pl len => Sys2Proof.Machine.execDecRdrsp pl len s
  | .encF32 d => Sys2Proof.Machine.execEncF32 d s
  | .encU32 u => Sys2Proof.Machine.execEncU32 u s
  | .decF32 v => Sys2Proof.Machine.execDecF32 v s
  | .decU32 v => Sys2Proof.Machine.execDecU32 v s
  | .illegal0 => Sys2Proof.Machine.execIllegal0 s
  | .illegalA => Sys2Proof.Machine.execIllegalA s
  | .illegalB => Sys2Proof.Machine.execIllegalB s
  | .illegalC => Sys2Proof.Machine.execIllegalC s
  | .illegalD => Sys2Proof.Machine.execIllegalD s
  | .illegalE => Sys2Proof.Machine.execIllegalE s
  | .illegalF => Sys2Proof.Machine.execIllegalF s
  | .arbid p f d r g => Sys2Proof.Machine.execArbid p f d r g s
  | .readReq reg => Sys2Proof.Machine.execReadReq reg s
  | .writeReq reg u => Sys2Proof.Machine.execWriteReq reg u s
  | .readRspF32 a b c u => Sys2Proof.Machine.execReadRspF32 a b c u s
  | .readRspU32 a b c u => Sys2Proof.Machine.execReadRspU32 a b c u s
  | .valueField u => Sys2Proof.Machine.execValueField u s

end Sys2Proof.Machine
end

