-- ==== Sys2Proof/Machine/Edge.lean ====
section
/-! DEFINITION. What one event does: a rising edge of `clk` (10_state.md R12), the user driving the inputs, a wire
object put on its port. And how a row's word is placed for the next step. -/

namespace Sys2Proof.Machine

/-- A rising edge of `clk` (R12): reset wins over acceptance (R22), an accepted command is executed, a taken response
leaves, otherwise nothing changes. -/
def clockEdge (s : State) : Host.Outcome State Fault Refusal :=
  if s.inp.rst then .next s.empty
  else if s.accept then exec (decodeCommand s.inp.cmd) s
  else if s.take then .next s.empty
  else .next s

/-- A wire object is put on its port. One of a table row's layout is that row's instruction; a payload of another
layout (R53) stands on the port all the same. -/
def presentWire (o : WireObject) (s : State) : Host.Outcome State Fault Refusal :=
  match decodeWire o with
  | .ok i => exec i s
  | .error _ => .next (s.putWire o)

/-- One event, in a state whose list no longer holds it. -/
def runEvent (e : Stimulus) (s : State) : Host.Outcome State Fault Refusal :=
  match e with
  | .drive i => .next (s.setInp i)
  | .clock => clockEdge s
  | .present o => presentWire o s

/-- The next event: the oldest of the list, or a clock edge with the inputs held. -/
def nextEvent (s : State) : Stimulus := s.stim.headD .clock

/-- Place what is presented so that the next step runs it. A command goes on the command port with `cmd_valid = 1`,
`rst = 0` and `rsp_ready = 1` (so that it is accepted even where a response is held), and a clock edge comes next; a
wire object comes next. -/
def place (s : State) (p : Presented) : State :=
  match p with
  | .command c => { s with inp := ⟨false, true, true, c⟩, stim := .clock :: s.stim }
  | .wire o => { s with stim := .present o :: s.stim }

/-- Place a row's word; a word of no row changes nothing. -/
def placeWord (s : State) (nbits w : Nat) : State :=
  match tableWord nbits w with
  | .ok p => place s p
  | .error _ => s

end Sys2Proof.Machine
end

