-- ==== Sys2Proof/Machine/Step.lean ====
section
/-! DEFINITION. One step: the next event happens (10_state.md R12; log entry 1). -/

namespace Sys2Proof.Machine

/-- One step: the oldest event leaves the list and happens. -/
def step (s : State) : Host.Outcome State Fault Refusal :=
  runEvent (nextEvent s) (s.setStim s.stim.tail)

/-- The state in which the next step runs the instruction of a table row's word (log entry 2). -/
def State.withFetchWord (s : State) (nbits w : Nat) : State := placeWord s nbits w

end Sys2Proof.Machine
end

