-- ==== Sys2Proof/Machine/Pseudo.lean ====
section
/-! DEFINITION. The four pseudo-operations of 30_encoding.md R57: what the user does with the block's operations. Every
step of them is a response of an operation; the tag comparison is the user's (70_reset_and_hazards.md R126), and the
rounding to two decimals after READ_FLOAT_REPLY is outside the block (log entry 12). -/

namespace Sys2Proof.Machine

/-- A Frame: "an arbitration id plus an 8-byte payload" (R25, R9). -/
structure Frame where
  id : BitVec 29
  pl : Payload
  deriving DecidableEq, Repr

/-- The Frame of an identifier response and a payload response; none where either command failed. -/
def frameOf : Response → Response → Option Frame
  | .ok (.id i), .ok (.readPayload pl) => some ⟨i, pl⟩
  | .ok (.id i), .ok (.writePayload pl) => some ⟨i, pl⟩
  | _, _ => none

/-- READ_FRAME (R57): ENC_ARBID with flag 1 (92 D8), then ENC_RDREQ. -/
def readFrame (p d s g : Nat) (reg : Byte) : Option Frame :=
  frameOf (encArbid p 1 d s g) (encRdreq reg)

/-- WRITE_FRAME (R57): ENC_ARBID with flag 1, then ENC_WRREQ. -/
def writeFrame (p d s g : Nat) (reg : Byte) (v : WriteValue) : Option Frame :=
  frameOf (encArbid p 1 d s g) (encWrreq reg v)

/-- The value bytes of a reply that has the tag the user expects; absent otherwise (R57, R126). -/
def expectTag (tag : Byte) : Response → Option ValueField
  | .ok (.reply t v) => if t = tag then some v else none
  | _ => none

/-- READ_FLOAT_REPLY (R57) before its rounding: DEC_RDRSP, the tag 0x41, DEC_F32. -/
def readFloatReply (pl : Payload) (len : BitVec 4) : Option F64 :=
  match expectTag tagFloat (decRdrsp pl len) with
  | some v =>
    match decF32 v with
    | .ok (.float d) => some d
    | _ => none
  | none => none

/-- READ_UINT_REPLY (R57): DEC_RDRSP, the tag 0x42, DEC_U32. -/
def readUintReply (pl : Payload) (len : BitVec 4) : Option (BitVec 32) :=
  match expectTag tagUint (decRdrsp pl len) with
  | some v =>
    match decU32 v with
    | .ok (.uint u) => some u
    | _ => none
  | none => none

end Sys2Proof.Machine
end

