-- ==== Sys2Proof/Safety.lean ====
section
/-! DEFINITION. The terms in which claims are made: the response of a command (10_state.md R15), a legal response
register (R14, R102), what an edge accepts and takes (R12), the log of a run (20_memory.md R35), and the number a
float pattern stands for (42_value.md R80, R81). -/

namespace Sys2Proof.Machine

/-- `exec` of R15: the response to a command, by the command alone. A wire object is no command. -/
def respond : Instr → Option Response
  | .encArbid p f d s g => some (encArbid p f d s g)
  | .decArbid id => some (decArbid id)
  | .encRdreq reg => some (encRdreq reg)
  | .encWrreq reg v => some (encWrreq reg v)
  | .decRdrsp pl len => some (decRdrsp pl len)
  | .encF32 d => some (encF32 d)
  | .encU32 u => some (encU32 u)
  | .decF32 v => some (decF32 v)
  | .decU32 v => some (decU32 v)
  | .illegal0 => some illegalOp
  | .illegalA => some illegalOp
  | .illegalB => some illegalOp
  | .illegalC => some illegalOp
  | .illegalD => some illegalOp
  | .illegalE => some illegalOp
  | .illegalF => some illegalOp
  | .arbid _ _ _ _ _ => none
  | .readReq _ => none
  | .writeReq _ _ => none
  | .readRspF32 _ _ _ _ => none
  | .readRspU32 _ _ _ _ => none
  | .valueField _ => none

/-- Every result field (all fields of R13 but status and info) is zero. -/
def Rsp.resultsZero (r : Rsp) : Bool :=
  r.id == 0 && r.protno == 0 && r.flag == 0 && r.dest == 0 && r.src == 0 && r.group == 0 &&
    r.pl == .zero && r.tag == 0 && r.raw == .zero && r.fval == 0 && r.uval == 0

/-- What R14 and R102 say of every response: an error has no result; info is a field code that is raised (0, 2, 3, 4
or 5; never FLAG, 6 or 7) with RANGE_ERROR and 0 with every other status. -/
def Rsp.legal (r : Rsp) : Bool :=
  (r.status == 0 || r.resultsZero) &&
    (if r.status == 1 then r.info == 0 || r.info == 2 || r.info == 3 || r.info == 4 || r.info == 5
     else r.info == 0)

/-- The response held, if one is held, is legal. -/
def State.legal (s : State) : Bool := !s.rspValid || s.rsp.legal

/-- The next step is a clock edge. -/
def State.atEdge (s : State) : Bool := decide (nextEvent s = .clock)

/-- The next step is a clock edge with `rst = 1`. -/
def State.resetNext (s : State) : Bool := s.atEdge && s.inp.rst

/-- The command that the next step accepts (R12). -/
def State.acceptedNext (s : State) : Option Instr :=
  if s.atEdge && !s.inp.rst && s.accept then some (decodeCommand s.inp.cmd) else none

/-- The response that the user takes in the next step (R12). -/
def State.takenNext (s : State) : Option Rsp :=
  if s.atEdge && !s.inp.rst && s.take then some s.rsp else none

/-- The response held and not yet taken, as a list of at most one. -/
def State.pending (s : State) : List Rsp := if s.rspValid then [s.rsp] else []

/-- What a run did: the responses taken and the commands accepted, each oldest first, whether it had a reset edge, and
the state it reached. -/
structure RunLog where
  taken : List Rsp
  accepted : List Instr
  sawReset : Bool
  last : State

/-- The log of `n` steps. -/
def runLog : Nat → State → RunLog
  | 0, s => ⟨[], [], false, s⟩
  | n + 1, s =>
    match step s with
    | .next t =>
      let l := runLog n t
      ⟨s.takenNext.toList ++ l.taken, s.acceptedNext.toList ++ l.accepted, s.resetNext || l.sawReset, l.last⟩
    | _ => ⟨[], [], false, s⟩

/-- The signals of the response to an accepted command. -/
def responseSignals (i : Instr) : Option Rsp := (respond i).map Response.signals

/-- A binary32 number: neither infinity nor NaN (R80). -/
def finite32 (w : F32) : Bool := decide (exp32 w < 255)

/-- A binary64 number: neither infinity nor NaN (R81). -/
def finite64 (d : F64) : Bool := decide (exp64 d < 2047)

/-- `(-1)^s`. -/
def signFactor (s : BitVec 1) : Int := if s = 1 then -1 else 1

/-- The value of a finite binary32 pattern (R80) in units of 2^-1074, so that it is an integer:
`f * 2^-149` is `f * 2^925` units, `(2^23 + f) * 2^(e - 150)` is `(2^23 + f) * 2^(e + 924)` units. -/
def units32 (w : F32) : Int :=
  signFactor (sign32 w) *
    ((if exp32 w = 0 then frac32 w * 2 ^ 925 else (2 ^ 23 + frac32 w) * 2 ^ (exp32 w + 924) : Nat) : Int)

/-- The value of a finite binary64 pattern (R81) in units of 2^-1074: `F` units, or `(2^52 + F) * 2^(E - 1)`. -/
def units64 (d : F64) : Int :=
  signFactor (sign64 d) *
    ((if exp64 d = 0 then frac64 d else (2 ^ 52 + frac64 d) * 2 ^ (exp64 d - 1) : Nat) : Int)

/-- The binary64 pattern without its sign bit, as a number. -/
def magnitude64 (d : F64) : Nat := d.toNat % 2 ^ 63

end Sys2Proof.Machine
end

