-- ==== Sys2Proof/Certificates/Slice0/Obligations.lean ====
section
/-! DEFINITION. The statements for the provers. Each docstring cites what it formalises. -/

open Sys2Proof Sys2Proof.Machine

/-! ### Arbitration-id operations -/

/-- R61 whole: the five fields packed, or RANGE_ERROR naming the first operand that does not fit, in argument order. -/
def Obligations.EncArbidPacksOrNamesTheFirstMisfit : Prop :=
  ∀ (p d s g : Nat) (f : BitVec 1) (st : State),
    exec (.encArbid p f d s g) st = .next { st with
      rspValid := true
      rsp :=
        if p > 0x1FF then { Rsp.zero with status := 1, info := 0 }
        else if d > 0xFF then { Rsp.zero with status := 1, info := 2 }
        else if s > 0xFF then { Rsp.zero with status := 1, info := 3 }
        else if g > 7 then { Rsp.zero with status := 1, info := 4 }
        else { Rsp.zero with
          id := BitVec.ofNat 29 ((p <<< 20) ||| (f.toNat <<< 19) ||| (d <<< 11) ||| (s <<< 3) ||| g) } }

/-- 40_arbid.md, ENC_ARBID and "Integer arithmetic of the block": operands that fit always complete, the fields do
not overlap (so the identifier is their sum), no bit is lost, and nothing but the response changes. -/
def Obligations.EncArbidIdentifierIsTheSumOfItsFields : Prop :=
  ∀ (p d s g : Nat) (f : BitVec 1) (st : State), p ≤ 0x1FF → d ≤ 0xFF → s ≤ 0xFF → g ≤ 7 →
    ∃ t, exec (.encArbid p f d s g) st = .next t ∧
      t.rsp.id.toNat = p * 2 ^ 20 + f.toNat * 2 ^ 19 + d * 2 ^ 11 + s * 2 ^ 3 + g ∧
      t = { st with rspValid := true, rsp := { Rsp.zero with id := t.rsp.id } }

/-- R63 whole: the five bit fields of an identifier, for every one of the 2^29. -/
def Obligations.DecArbidSplitsTheIdentifier : Prop :=
  ∀ (id : BitVec 29) (st : State),
    exec (.decArbid id) st = .next { st with
      rspValid := true
      rsp := { Rsp.zero with
        protno := BitVec.ofNat 9 (id.toNat / 2 ^ 20)
        flag := BitVec.ofNat 1 (id.toNat / 2 ^ 19)
        dest := BitVec.ofNat 8 (id.toNat / 2 ^ 11)
        src := BitVec.ofNat 8 (id.toNat / 2 ^ 3)
        group := BitVec.ofNat 3 id.toNat } }

/-- 40_arbid.md, "Round-trip laws": (a) DEC_ARBID after ENC_ARBID gives the five operands back, for all that fit;
(b) ENC_ARBID after DEC_ARBID gives the identifier back, with status OK (the spec's inference); (c) ENC_ARBID on
operands that fit is injective (the spec's inference). -/
def Obligations.ArbidEncodeAndDecodeAreInverse : Prop :=
  (∀ (p d s g : Nat) (f : BitVec 1) (st : State), p ≤ 0x1FF → d ≤ 0xFF → s ≤ 0xFF → g ≤ 7 →
    ∃ t u, exec (.encArbid p f d s g) st = .next t ∧ exec (.decArbid t.rsp.id) t = .next u ∧
      u.rsp.protno.toNat = p ∧ u.rsp.flag = f ∧ u.rsp.dest.toNat = d ∧ u.rsp.src.toNat = s ∧
      u.rsp.group.toNat = g) ∧
  (∀ (id : BitVec 29) (st : State), ∃ t u, exec (.decArbid id) st = .next t ∧
    exec (.encArbid t.rsp.protno.toNat t.rsp.flag t.rsp.dest.toNat t.rsp.src.toNat t.rsp.group.toNat) t = .next u ∧
      u.rsp.status = 0 ∧ u.rsp.id = id) ∧
  (∀ (p d s g p' d' s' g' : Nat) (f f' : BitVec 1) (st t t' : State),
    p ≤ 0x1FF → d ≤ 0xFF → s ≤ 0xFF → g ≤ 7 → p' ≤ 0x1FF → d' ≤ 0xFF → s' ≤ 0xFF → g' ≤ 7 →
    exec (.encArbid p f d s g) st = .next t → exec (.encArbid p' f' d' s' g') st = .next t' →
    t.rsp.id = t'.rsp.id → p = p' ∧ f = f' ∧ d = d' ∧ s = s' ∧ g = g')

/-! ### Payload operations -/

/-- R71 whole: `[0x10, 0, 0, register, 0, 0, 0, 0]`, for every register address. -/
def Obligations.EncRdreqBuildsTheReadRequest : Prop :=
  ∀ (reg : Byte) (st : State),
    exec (.encRdreq reg) st = .next { st with
      rspValid := true
      rsp := { Rsp.zero with pl := ⟨0x10, 0x00, 0x00, reg, 0x00, 0x00, 0x00, 0x00⟩ } }

/-- 41_payload.md, ENC_WRREQ, integer path: function code 0x03 and the value's four bytes, most significant first,
for every register and value. -/
def Obligations.EncWrreqIntegerBuildsTheWriteRequest : Prop :=
  ∀ (reg : Byte) (u : BitVec 32) (st : State),
    exec (.encWrreq reg (.uint u)) st = .next { st with
      rspValid := true
      rsp := { Rsp.zero with pl :=
        ⟨0x03, 0x00, 0x00, reg, BitVec.ofNat 8 (u.toNat / 2 ^ 24), BitVec.ofNat 8 (u.toNat / 2 ^ 16),
          BitVec.ofNat 8 (u.toNat / 2 ^ 8), BitVec.ofNat 8 u.toNat⟩ } }

/-- 41_payload.md, ENC_WRREQ corner case (b), the spec's inference: the value bytes of a write are those of ENC_F32 or
ENC_U32 on the same value, and the float path fails exactly as ENC_F32 does, with an all-zero payload. -/
def Obligations.EncWrreqCarriesTheEncodedValue : Prop :=
  (∀ (reg : Byte) (d : F64) (st : State), ∃ t u,
    exec (.encF32 d) st = .next t ∧ exec (.encWrreq reg (.float d)) st = .next u ∧
      u.rsp.status = t.rsp.status ∧ u.rsp.info = t.rsp.info ∧
      u.rsp.pl = (if t.rsp.status = 0 then
        ⟨0x03, 0x00, 0x00, reg, t.rsp.raw.v0, t.rsp.raw.v1, t.rsp.raw.v2, t.rsp.raw.v3⟩ else .zero)) ∧
  (∀ (reg : Byte) (v : BitVec 32) (st : State), ∃ t u,
    exec (.encU32 v) st = .next t ∧ exec (.encWrreq reg (.uint v)) st = .next u ∧
      u.rsp.status = 0 ∧
      u.rsp.pl = ⟨0x03, 0x00, 0x00, reg, t.rsp.raw.v0, t.rsp.raw.v1, t.rsp.raw.v2, t.rsp.raw.v3⟩)

/-- R75 whole: a length below 8 is MALFORMED_FRAME; any other gives the tag, whatever it is, and the four value bytes.
Bytes 1 to 3 do not matter. -/
def Obligations.DecRdrspReturnsTagAndValueOrIsMalformed : Prop :=
  ∀ (pl : Payload) (len : BitVec 4) (st : State),
    (len.toNat < 8 → exec (.decRdrsp pl len) st = .next { st with
      rspValid := true, rsp := { Rsp.zero with status := 2 } }) ∧
    (8 ≤ len.toNat → exec (.decRdrsp pl len) st = .next { st with
      rspValid := true, rsp := { Rsp.zero with tag := pl.b0, raw := ⟨pl.b4, pl.b5, pl.b6, pl.b7⟩ } })

/-- R104: MALFORMED_FRAME is raised by DEC_RDRSP, exactly when the length is below 8, and by no other command. -/
def Obligations.MalformedFrameExactlyOnShortReplies : Prop :=
  ∀ (i : Instr) (st t : State), i.format = .cmd → exec i st = .next t →
    (t.rsp.status = 2 ↔ ∃ pl len, i = .decRdrsp pl len ∧ len.toNat < 8)

/-- 41_payload.md, "Laws of the payload operations" (b), the spec's inference: a request handed back with length 8 is
parsed as a response, tag 0x10 with a zero value or tag 0x03 with the value written. -/
def Obligations.RequestsParseAsReplies : Prop :=
  (∀ (reg : Byte) (st : State), ∃ t u, exec (.encRdreq reg) st = .next t ∧
    exec (.decRdrsp t.rsp.pl 8) t = .next u ∧ u.rsp = { Rsp.zero with tag := 0x10 }) ∧
  (∀ (reg : Byte) (v : BitVec 32) (st : State), ∃ t u w, exec (.encWrreq reg (.uint v)) st = .next t ∧
    exec (.decRdrsp t.rsp.pl 8) t = .next u ∧ exec (.encU32 v) st = .next w ∧
    u.rsp = { Rsp.zero with tag := 0x03, raw := w.rsp.raw }) ∧
  (∀ (reg : Byte) (d : F64) (st w : State), exec (.encF32 d) st = .next w → w.rsp.status = 0 →
    ∃ t u, exec (.encWrreq reg (.float d)) st = .next t ∧ exec (.decRdrsp t.rsp.pl 8) t = .next u ∧
      u.rsp = { Rsp.zero with tag := 0x03, raw := w.rsp.raw })

/-! ### Value operations -/

/-- R92 whole: the four bytes of an integer, most significant first. -/
def Obligations.EncU32IsBigEndian : Prop :=
  ∀ (u : BitVec 32) (st : State),
    exec (.encU32 u) st = .next { st with
      rspValid := true
      rsp := { Rsp.zero with raw :=
        ⟨BitVec.ofNat 8 (u.toNat / 2 ^ 24), BitVec.ofNat 8 (u.toNat / 2 ^ 16), BitVec.ofNat 8 (u.toNat / 2 ^ 8),
          BitVec.ofNat 8 u.toNat⟩ } }

/-- R96 whole: `(V[0] << 24) | (V[1] << 16) | (V[2] << 8) | V[3]`, unsigned. -/
def Obligations.DecU32IsBigEndian : Prop :=
  ∀ (v : ValueField) (st : State),
    exec (.decU32 v) st = .next { st with
      rspValid := true
      rsp := { Rsp.zero with
        uval := BitVec.ofNat 32
          ((v.v0.toNat <<< 24) ||| (v.v1.toNat <<< 16) ||| (v.v2.toNat <<< 8) ||| v.v3.toNat) } }

/-- 42_value.md, "Laws of the value operations" (a), the spec's inference: ENC_U32 and DEC_U32 are inverse to each
other on every integer and every four bytes. -/
def Obligations.U32EncodeAndDecodeAreInverse : Prop :=
  (∀ (u : BitVec 32) (st : State), ∃ t v, exec (.encU32 u) st = .next t ∧
    exec (.decU32 t.rsp.raw) t = .next v ∧ v.rsp.uval = u) ∧
  (∀ (w : ValueField) (st : State), ∃ t v, exec (.decU32 w) st = .next t ∧
    exec (.encU32 t.rsp.uval) t = .next v ∧ v.rsp.raw = w)

/-- 42_value.md, consequences of `narrow` (the spec's inference) and ENC_F32 "Errors": a float encodes unless it is
finite with magnitude pattern at least `0x47EFFFFFF0000000`, the midpoint between the largest finite binary32 and
2^128; then, and only then, ENC_F32 and ENC_WRREQ raise RANGE_ERROR on VALUE. -/
def Obligations.FloatsEncodeBelowTheOverflowMidpoint : Prop :=
  ∀ (d : F64) (reg : Byte) (st : State),
    ((exp64 d = 2047 ∨ magnitude64 d < 0x47EFFFFFF0000000) →
      ∃ v : ValueField,
        exec (.encF32 d) st = .next { st with rspValid := true, rsp := { Rsp.zero with raw := v } } ∧
        exec (.encWrreq reg (.float d)) st = .next { st with
          rspValid := true, rsp := { Rsp.zero with pl := ⟨0x03, 0x00, 0x00, reg, v.v0, v.v1, v.v2, v.v3⟩ } }) ∧
    (¬(exp64 d = 2047 ∨ magnitude64 d < 0x47EFFFFFF0000000) →
      exec (.encF32 d) st = .next { st with rspValid := true, rsp := { Rsp.zero with status := 1, info := 5 } } ∧
      exec (.encWrreq reg (.float d)) st = .next { st with
        rspValid := true, rsp := { Rsp.zero with status := 1, info := 5 } })

/-- 42_value.md, `narrow`: a finite float below the overflow midpoint encodes to the binary32 number nearest in value, of
the same sign; where another is as near, to the one whose last fraction bit is zero. Values are those of the two
formats, in units of 2^-1074 (`units32`, `units64`). The bound is the spec's inference. -/
def Obligations.EncF32RoundsToNearestEven : Prop :=
  ∀ (d : F64) (st : State), finite64 d = true → magnitude64 d < 0x47EFFFFFF0000000 →
    ∃ v : ValueField,
      exec (.encF32 d) st = .next { st with rspValid := true, rsp := { Rsp.zero with raw := v } } ∧
      finite32 (unbe32 v) = true ∧ sign32 (unbe32 v) = sign64 d ∧
      ∀ w : F32, finite32 w = true →
        |units64 d - units32 (unbe32 v)| ≤ |units64 d - units32 w| ∧
        (w ≠ unbe32 v → |units64 d - units32 (unbe32 v)| = |units64 d - units32 w| →
          (unbe32 v).getLsbD 0 = false)

/-- 42_value.md, `narrow` and ENC_F32 corner cases (a), (b): a zero, and every binary64 subnormal, gives the zero of its
sign; an infinity gives the infinity of its sign. -/
def Obligations.EncF32KeepsZeroAndInfinity : Prop :=
  ∀ (d : F64) (st : State),
    (exp64 d = 0 → exec (.encF32 d) st = .next { st with
      rspValid := true, rsp := { Rsp.zero with raw := ⟨if sign64 d = 1 then 0x80 else 0x00, 0x00, 0x00, 0x00⟩ } }) ∧
    (exp64 d = 2047 → frac64 d = 0 → exec (.encF32 d) st = .next { st with
      rspValid := true, rsp := { Rsp.zero with raw := ⟨if sign64 d = 1 then 0xFF else 0x7F, 0x80, 0x00, 0x00⟩ } })

/-- 42_value.md section 2, "a NaN goes to a NaN", in each of the three operations that convert one. Which NaN is a free value:
this holds whatever the two free functions of Config are. -/
def Obligations.NansStayNans : Prop :=
  ∀ (st : State),
    (∀ d : F64, isNan64 d = true → ∃ v : ValueField, isNan32 (unbe32 v) = true ∧
      exec (.encF32 d) st = .next { st with rspValid := true, rsp := { Rsp.zero with raw := v } } ∧
      ∀ reg : Byte, exec (.encWrreq reg (.float d)) st = .next { st with
        rspValid := true, rsp := { Rsp.zero with pl := ⟨0x03, 0x00, 0x00, reg, v.v0, v.v1, v.v2, v.v3⟩ } }) ∧
    (∀ v : ValueField, isNan32 (unbe32 v) = true → ∃ d : F64, isNan64 d = true ∧
      exec (.decF32 v) st = .next { st with rspValid := true, rsp := { Rsp.zero with fval := d } })

/-- 42_value.md, `widen` and DEC_F32: a finite value field decodes, always with status OK, to the binary64 number of
the same sign and exactly the same value, whose low 29 fraction bits are zero; nothing is rounded or flushed. -/
def Obligations.DecF32IsExact : Prop :=
  ∀ (v : ValueField) (st : State), finite32 (unbe32 v) = true →
    ∃ d : F64, exec (.decF32 v) st = .next { st with rspValid := true, rsp := { Rsp.zero with fval := d } } ∧
      finite64 d = true ∧ sign64 d = sign32 (unbe32 v) ∧ units64 d = units32 (unbe32 v) ∧ frac64 d % 2 ^ 29 = 0

/-- 42_value.md, DEC_F32 corner cases (a), (b): signed zeros and infinities. -/
def Obligations.DecF32KeepsZeroAndInfinity : Prop :=
  ∀ (st : State),
    exec (.decF32 ⟨0x00, 0x00, 0x00, 0x00⟩) st = .next { st with
      rspValid := true, rsp := { Rsp.zero with fval := 0x0000000000000000 } } ∧
    exec (.decF32 ⟨0x80, 0x00, 0x00, 0x00⟩) st = .next { st with
      rspValid := true, rsp := { Rsp.zero with fval := 0x8000000000000000 } } ∧
    exec (.decF32 ⟨0x7F, 0x80, 0x00, 0x00⟩) st = .next { st with
      rspValid := true, rsp := { Rsp.zero with fval := 0x7FF0000000000000 } } ∧
    exec (.decF32 ⟨0xFF, 0x80, 0x00, 0x00⟩) st = .next { st with
      rspValid := true, rsp := { Rsp.zero with fval := 0xFFF0000000000000 } }

/-- 42_value.md, "Laws of the value operations" (b), the spec's inference: ENC_F32 after DEC_F32 gives back every value
field that is not a NaN, with status OK. -/
def Obligations.F32FieldsSurviveDecodeAndEncode : Prop :=
  ∀ (v : ValueField) (st : State), isNan32 (unbe32 v) = false →
    ∃ t u, exec (.decF32 v) st = .next t ∧ exec (.encF32 t.rsp.fval) t = .next u ∧
      u.rsp = { Rsp.zero with raw := v }

/-- 42_value.md, "Laws of the value operations" (c): for a float that is not a NaN and encodes, DEC_F32 after ENC_F32
recovers it exactly when some value field decodes to it. -/
def Obligations.FloatsAreRecoveredExactlyWhenRepresentable : Prop :=
  ∀ (d : F64) (st t u : State), isNan64 d = false → exec (.encF32 d) st = .next t → t.rsp.status = 0 →
    exec (.decF32 t.rsp.raw) t = .next u →
    (u.rsp.fval = d ↔ ∃ (v : ValueField) (w : State), exec (.decF32 v) st = .next w ∧ w.rsp.fval = d)

/-! ### Errors and unassigned codes -/

/-- 60_exceptions.md section 1, for the seven unassigned codes: status ILLEGAL_OP, info 0, every result zero, nothing else changed. -/
def Obligations.UnassignedCodesAnswerIllegalOp : Prop :=
  ∀ (i : Instr) (st : State),
    i ∈ [Instr.illegal0, .illegalA, .illegalB, .illegalC, .illegalD, .illegalE, .illegalF] →
    exec i st = .next { st with rspValid := true, rsp := { Rsp.zero with status := 3 } }

/-- R106 whole, at the port: a code 0x0 or 0xA to 0xF, accepted like any other, is answered ILLEGAL_OP, info 0, every
result zero, whatever the operand ports carry; nothing else changes but that the edge has passed. -/
def Obligations.UnassignedCodesAreAcceptedAndAnswered : Prop :=
  ∀ (s : State), nextEvent s = .clock → s.inp.rst = false → s.accept = true →
    (s.inp.cmd.op.toNat = 0 ∨ 0xA ≤ s.inp.cmd.op.toNat) →
    step s = .next { s with
      stim := s.stim.tail, rspValid := true, rsp := { Rsp.zero with status := 3 } }

/-- 60_exceptions.md section 1 (the float bound is the spec's inference in 42_value.md section 2): RANGE_ERROR is raised by ENC_ARBID when an operand does not fit its field, and by ENC_F32 and ENC_WRREQ when a
finite float is too large for binary32; by nothing else. -/
def Obligations.RangeErrorHasOnlyTwoCauses : Prop :=
  ∀ (i : Instr) (st t : State), i.format = .cmd → exec i st = .next t →
    (t.rsp.status = 1 ↔
      (∃ p f d s g, i = .encArbid p f d s g ∧ (0x1FF < p ∨ 0xFF < d ∨ 0xFF < s ∨ 7 < g)) ∨
      (∃ d, (i = .encF32 d ∨ ∃ reg, i = .encWrreq reg (.float d)) ∧
        finite64 d = true ∧ 0x47EFFFFFF0000000 ≤ magnitude64 d))

/-! ### Frames -/

/-- 10_state.md sections 1 and 3: a command of any of the sixteen codes answers, and writes the response register and its valid bit
only: the inputs and what the user does next are as before; an error has no result; info is a legal code. -/
def Obligations.CommandsWriteOnlyTheResponse : Prop :=
  ∀ (i : Instr) (st : State), i.format = .cmd →
    ∃ r : Rsp, r.legal = true ∧ exec i st = .next { st with rspValid := true, rsp := r }

/-- 10_state.md sections 1 and 4 (an error leaves no sticky bit): the response to a command does not depend on the state: not on an earlier response or error,
not on the inputs, not on what comes next. -/
def Obligations.ResponsesDependOnTheCommandAlone : Prop :=
  ∀ (i : Instr) (a b a' b' : State), i.format = .cmd → exec i a = .next a' → exec i b = .next b' →
    a'.rsp = b'.rsp ∧ a'.rspValid = b'.rspValid

/-- 20_memory.md section 3, "every operation is idempotent": the same command again leaves the same machine; so does the
same wire object (log entry 7). -/
def Obligations.CommandsAreIdempotent : Prop :=
  ∀ (i : Instr) (s t : State), exec i s = .next t → exec i t = .next t

/-- The model's choice for the six wire formats (log entry 7): an object put on its port leaves the response register,
its valid bit, the handshake inputs, `cmd_op` and every operand port but its own as they were. -/
def Obligations.WireObjectsChangeOnlyTheirPort : Prop :=
  ∀ (i : Instr) (s : State), i.format ≠ .cmd →
    ∃ (id : BitVec 29) (pl : Payload) (len : BitVec 4) (raw : ValueField),
      exec i s = .next { s with inp := { s.inp with cmd := { s.inp.cmd with id := id, pl := pl, len := len, raw := raw } } } ∧
      (i.format ≠ .arbid → id = s.inp.cmd.id) ∧
      (i.format ≠ .payload → pl = s.inp.cmd.pl ∧ len = s.inp.cmd.len) ∧
      (i.format ≠ .value → raw = s.inp.cmd.raw)

/-! ### Wire formats -/

/-- 30_encoding.md section 1, with the model's choice of port (log entry 7): an ARBID stands on `cmd_id` as the sum of
its shifted fields, and nothing else changes. -/
def Obligations.ArbidStandsOnItsPort : Prop :=
  ∀ (p : BitVec 9) (f : BitVec 1) (d s : BitVec 8) (g : BitVec 3) (st : State),
    ∃ id : BitVec 29,
      id.toNat = p.toNat * 2 ^ 20 + f.toNat * 2 ^ 19 + d.toNat * 2 ^ 11 + s.toNat * 2 ^ 3 + g.toNat ∧
      exec (.arbid p f d s g) st = .next { st with inp := { st.inp with cmd := { st.inp.cmd with id := id } } }

/-- 30_encoding.md section 2, with the model's choice of port (log entry 7): each of the four payload rows stands on
`cmd_pl` in its layout with length 8, value bytes big-endian, and nothing else changes. -/
def Obligations.PayloadsStandOnTheirPort : Prop :=
  ∀ (reg e1 e2 e3 : Byte) (u : BitVec 32) (st : State),
    let put (b0 b1 b2 b3 : Byte) (v : Nat) : State := { st with inp := { st.inp with cmd := { st.inp.cmd with
      len := 8
      pl := ⟨b0, b1, b2, b3, BitVec.ofNat 8 (v / 2 ^ 24), BitVec.ofNat 8 (v / 2 ^ 16), BitVec.ofNat 8 (v / 2 ^ 8),
        BitVec.ofNat 8 v⟩ } } }
    exec (.readReq reg) st = .next (put 0x10 0x00 0x00 reg 0) ∧
    exec (.writeReq reg u) st = .next (put 0x03 0x00 0x00 reg u.toNat) ∧
    exec (.readRspF32 e1 e2 e3 u) st = .next (put 0x41 e1 e2 e3 u.toNat) ∧
    exec (.readRspU32 e1 e2 e3 u) st = .next (put 0x42 e1 e2 e3 u.toNat)

/-- 20_memory.md section 2, with the model's choice of port (log entry 7): a VALUE_FIELD stands on `cmd_raw`, most
significant byte first, and nothing else changes. -/
def Obligations.ValueFieldStandsOnItsPort : Prop :=
  ∀ (u : BitVec 32) (st : State),
    exec (.valueField u) st = .next { st with inp := { st.inp with cmd := { st.inp.cmd with raw :=
      ⟨BitVec.ofNat 8 (u.toNat / 2 ^ 24), BitVec.ofNat 8 (u.toNat / 2 ^ 16), BitVec.ofNat 8 (u.toNat / 2 ^ 8),
        BitVec.ofNat 8 u.toNat⟩ } } }

/-- A wire object put on its port and then the operation that takes it apart (log entry 7): two steps of the machine.
The payload is any payload, of a table row's layout or not (R53). -/
def Obligations.PresentedObjectsAreTakenApart : Prop :=
  ∀ (s : State) (rest : List Stimulus), s.inp.rst = false → s.accept = true →
    (∀ id : BitVec 29, s.stim = .present (.identifier id) :: .clock :: rest → s.inp.cmd.op = 2 →
      ∃ u t, step s = .next u ∧ step u = .next t ∧ t.stim = rest ∧ t.rspValid = true ∧
        t.rsp.protno.toNat = id.toNat / 2 ^ 20 ∧ t.rsp.flag.toNat = id.toNat / 2 ^ 19 % 2 ∧
        t.rsp.dest.toNat = id.toNat / 2 ^ 11 % 2 ^ 8 ∧ t.rsp.src.toNat = id.toNat / 2 ^ 3 % 2 ^ 8 ∧
        t.rsp.group.toNat = id.toNat % 2 ^ 3) ∧
    (∀ pl : Payload, s.stim = .present (.payload pl) :: .clock :: rest → s.inp.cmd.op = 5 →
      ∃ u t, step s = .next u ∧ step u = .next t ∧ t.stim = rest ∧ t.rspValid = true ∧
        t.rsp = { Rsp.zero with tag := pl.b0, raw := ⟨pl.b4, pl.b5, pl.b6, pl.b7⟩ }) ∧
    (∀ v : ValueField, s.stim = .present (.value v) :: .clock :: rest → s.inp.cmd.op = 9 →
      ∃ u t, step s = .next u ∧ step u = .next t ∧ t.stim = rest ∧ t.rspValid = true ∧
        t.rsp.uval.toNat =
          v.v0.toNat * 2 ^ 24 + v.v1.toNat * 2 ^ 16 + v.v2.toNat * 2 ^ 8 + v.v3.toNat)

/-- What an encoder builds is the wire row the table says it builds: ENC_RDREQ a READ_REQ, ENC_WRREQ a WRITE_REQ,
ENC_ARBID an ARBID, ENC_U32 a VALUE_FIELD, each with the operands given (the notes of spec/opcode_table.json). -/
def Obligations.BuiltObjectsAreTheirTableRows : Prop :=
  (∀ (reg : Byte) (st : State), ∃ t, exec (.encRdreq reg) st = .next t ∧
    decode (.wire (.payload t.rsp.pl)) = .ok (.readReq reg)) ∧
  (∀ (reg : Byte) (u : BitVec 32) (st : State), ∃ t, exec (.encWrreq reg (.uint u)) st = .next t ∧
    decode (.wire (.payload t.rsp.pl)) = .ok (.writeReq reg u)) ∧
  (∀ (p d s g : Nat) (f : BitVec 1) (st : State), p ≤ 0x1FF → d ≤ 0xFF → s ≤ 0xFF → g ≤ 7 →
    ∃ t, exec (.encArbid p f d s g) st = .next t ∧
      decode (.wire (.identifier t.rsp.id)) =
        .ok (.arbid (BitVec.ofNat 9 p) f (BitVec.ofNat 8 d) (BitVec.ofNat 8 s) (BitVec.ofNat 3 g))) ∧
  (∀ (u : BitVec 32) (st : State), ∃ t, exec (.encU32 u) st = .next t ∧
    decode (.wire (.value t.rsp.raw)) = .ok (.valueField u))

/-! ### The wrapper and the step -/

/-- A step runs the decoded command (10_state.md section 3): at a clock edge without reset, where the command is
accepted, the step is `exec` of it; the edge leaves the list of events. -/
def Obligations.StepRunsTheAcceptedCommand : Prop :=
  ∀ (s : State) (i : Instr), decode (.command s.inp.cmd) = .ok i → nextEvent s = .clock → s.inp.rst = false →
    s.accept = true → i.wf = true ∧ step s = exec i { s with stim := s.stim.tail }

/-- A step runs the decoded wire object (log entry 7); a payload of no row stands on its port all the same. -/
def Obligations.StepRunsTheWireObject : Prop :=
  ∀ (s : State) (o : WireObject) (rest : List Stimulus), s.stim = .present o :: rest →
    (∀ i, decode (.wire o) = .ok i → step s = exec i { s with stim := rest }) ∧
    (∀ e, decode (.wire o) = .error e → ∃ pl, o = .payload pl ∧
      step s = .next { s with stim := rest, inp := { s.inp with cmd := { s.inp.cmd with pl := pl, len := 8 } } })

/-- R12 whole. At a rising edge: `cmd_ready`; reset first; then acceptance, which writes RSP and RSP_VALID; then a taken
response; otherwise no change. Between edges RSP and RSP_VALID do not change, whatever the user does. -/
def Obligations.ClockEdgeFollowsTheHandshake : Prop :=
  (∀ (s : State), nextEvent s = .clock →
    (s.cmdReady = true ↔ s.rspValid = false ∨ s.inp.rspReady = true) ∧
    (s.inp.rst = true → step s = .next { s with stim := s.stim.tail, rspValid := false }) ∧
    (s.inp.rst = false → s.inp.cmdValid = true ∧ s.cmdReady = true → ∃ r : Response,
      respond (decodeCommand s.inp.cmd) = some r ∧
      step s = .next { s with stim := s.stim.tail, rspValid := true, rsp := r.signals }) ∧
    (s.inp.rst = false → ¬(s.inp.cmdValid = true ∧ s.cmdReady = true) →
      s.rspValid = true ∧ s.inp.rspReady = true →
      step s = .next { s with stim := s.stim.tail, rspValid := false }) ∧
    (s.inp.rst = false → ¬(s.inp.cmdValid = true ∧ s.cmdReady = true) →
      ¬(s.rspValid = true ∧ s.inp.rspReady = true) → step s = .next { s with stim := s.stim.tail })) ∧
  (∀ (s : State), nextEvent s ≠ .clock →
    ∃ t, step s = .next t ∧ t.rspValid = s.rspValid ∧ t.rsp = s.rsp ∧ t.stim = s.stim.tail)

/-- 10_state.md section 3, "a response is never overwritten before it is taken": in any step but a reset edge, of any
kind, a response held and not taken stays, bit for bit. -/
def Obligations.UntakenResponsesAreNeverOverwritten : Prop :=
  ∀ (s t : State), s.rspValid = true → s.resetNext = false → s.takenNext = none → step s = .next t →
    t.rspValid = true ∧ t.rsp = s.rsp

/-- 10_state.md section 5: a reset edge sets RSP_VALID to 0, so that a command can be accepted next and the response port
gives no value; a command presented on the same edge is not accepted, and no response is taken on it. -/
def Obligations.ResetEmptiesTheResponseRegister : Prop :=
  ∀ (s : State), s.resetNext = true → s.acceptedNext = none ∧ s.takenNext = none ∧
    ∃ t, step s = .next t ∧ t.rspValid = false ∧ t.cmdReady = true ∧ t.responsePort = .error .responseNotValid

/-- R22 at `State.reset`: RSP_VALID is 0, `cmd_ready` is 1, and the response port gives no value. -/
def Obligations.ResetStateIsEmptyAndReady : Prop :=
  State.reset.rspValid = false ∧ State.reset.cmdReady = true ∧
    State.reset.responsePort = .error .responseNotValid

/-- R13 and 93 U12: the response port gives `RSP` exactly while `rsp_valid = 1`, and no value otherwise. -/
def Obligations.ResponsePortNeedsAValidResponse : Prop :=
  ∀ (s : State) (r : Rsp),
    (s.responsePort = .ok r ↔ s.rspValid = true ∧ s.rsp = r) ∧
    (s.responsePort = .error .responseNotValid ↔ s.rspValid = false)

/-- The block never stops: every step of every state answers a next state (R15 total, R109: errors are responses). -/
def Obligations.EveryStepAnswersANextState : Prop :=
  ∀ (s : State), ∃ t, step s = .next t

/-- At reset the response held, if any, is legal (R14, R102). -/
def Obligations.LegalResponseAtReset : Prop :=
  State.reset.legal = true

/-- Every step of every state keeps: the response held, if any, is legal: an error has no result, info is 0 but with
RANGE_ERROR, and then it is 0, 2, 3, 4 or 5 (R14, R102). -/
def Obligations.EveryStepKeepsTheResponseLegal : Prop :=
  ∀ (s t : State), s.legal = true → step s = .next t → t.legal = true

/-- 20_memory.md, "Consistency model" (c), the spec's inference: over any run of any length from any state, without a
reset edge, the responses taken and then the one still held are, in order, the one held at the start and then the
response to each command accepted: one each, none lost, none duplicated. -/
def Obligations.ResponsesAreDeliveredInOrder : Prop :=
  ∀ (n : Nat) (s : State), (runLog n s).sawReset = false →
    ((runLog n s).taken ++ (runLog n s).last.pending).map some =
      s.pending.map some ++ (runLog n s).accepted.map responseSignals

/-- 70_reset_and_hazards.md section 3: a user that holds `rsp_ready` low after a response, with the inputs otherwise held
and no reset, blocks the block: no number of edges changes anything. -/
def Obligations.AnUntakenResponseBlocksForever : Prop :=
  ∀ (n : Nat) (s : State), s.stim = [] → s.inp.rst = false → s.rspValid = true → s.inp.rspReady = false →
    Host.Core.run Sys2Proof.core n s = .next s

/-- 70_reset_and_hazards.md section 4: after an edge that takes a response and accepts none, the block is ready for the
next command. -/
def Obligations.ATakenResponseLeavesTheBlockReady : Prop :=
  ∀ (s t : State), s.takenNext ≠ none → s.acceptedNext = none → step s = .next t →
    t.rspValid = false ∧ t.cmdReady = true

/-! ### Decoding -/

/-- Decode and encode agree on every well-formed instruction of the table. -/
def Obligations.DecodeOfEncodeIsTheInstruction : Prop :=
  ∀ (i : Instr), i.wf = true → decode (encode i) = .ok i

/-- Encode and decode agree on every wire object that has a row: its bits are exactly those of the instruction. -/
def Obligations.EncodeOfDecodedWireIsTheWire : Prop :=
  ∀ (o : WireObject) (i : Instr), decode (.wire o) = .ok i → encode i = .wire o

/-- Each operation reads only the ports listed for it (R11, 92 D23): command ports that agree on the operation code and
on the ports it lists carry the same command, whatever the others carry. -/
def Obligations.UnlistedPortsAreIgnored : Prop :=
  ∀ (a b : CmdPort), a.op = b.op →
    (a.op = 1 → a.protno = b.protno → a.flag = b.flag → a.dest = b.dest → a.src = b.src → a.group = b.group →
      decodeCommand a = decodeCommand b) ∧
    (a.op = 2 → a.id = b.id → decodeCommand a = decodeCommand b) ∧
    (a.op = 3 → a.reg = b.reg → decodeCommand a = decodeCommand b) ∧
    (a.op = 4 → a.reg = b.reg → a.isFloat = 1 → b.isFloat = 1 → a.fval = b.fval →
      decodeCommand a = decodeCommand b) ∧
    (a.op = 4 → a.reg = b.reg → a.isFloat = 0 → b.isFloat = 0 → a.uval = b.uval →
      decodeCommand a = decodeCommand b) ∧
    (a.op = 5 → a.pl = b.pl → a.len = b.len → decodeCommand a = decodeCommand b) ∧
    (a.op = 6 → a.fval = b.fval → decodeCommand a = decodeCommand b) ∧
    (a.op = 7 → a.uval = b.uval → decodeCommand a = decodeCommand b) ∧
    (a.op = 8 → a.raw = b.raw → decodeCommand a = decodeCommand b) ∧
    (a.op = 9 → a.raw = b.raw → decodeCommand a = decodeCommand b) ∧
    (a.op = 0 ∨ 0xA ≤ a.op.toNat → decodeCommand a = decodeCommand b)

/-- The payload rows of the table: a payload has no row exactly when it has none of the four layouts (R43 to R45). -/
def Obligations.PayloadsWithoutALayoutHaveNoRow : Prop :=
  ∀ (pl : Payload),
    decodePayload pl = .error .noPayloadFormat ↔
      ¬(pl.b0 = 0x10 ∧ pl.b1 = 0 ∧ pl.b2 = 0 ∧ pl.b4 = 0 ∧ pl.b5 = 0 ∧ pl.b6 = 0 ∧ pl.b7 = 0) ∧
      ¬(pl.b0 = 0x03 ∧ pl.b1 = 0 ∧ pl.b2 = 0) ∧ pl.b0 ≠ 0x41 ∧ pl.b0 ≠ 0x42

/-- Words written out from the spec's encodings decode to the instructions they stand for: codes of R50 and R51, the
identifier of R61's example, payloads of R71's and R73's examples and of R45. -/
def Obligations.WordsOfTheSpecDecode : Prop :=
  decodeTableWord 8 0b0001 = some (.encArbid 0 0 0 0 0) ∧
  decodeTableWord 8 0b0101 = some (.decRdrsp .zero 0) ∧
  decodeTableWord 8 0b1001 = some (.decU32 .zero) ∧
  decodeTableWord 8 0b0000 = some .illegal0 ∧
  decodeTableWord 8 0b1111 = some .illegalF ∧
  decodeTableWord 29 0x06080F80 = some (.arbid 0x060 1 0x01 0xF0 0) ∧
  decodeTableWord 64 0x1000000100000000 = some (.readReq 0x01) ∧
  decodeTableWord 64 0x030000213E800000 = some (.writeReq 0x21 0x3E800000) ∧
  decodeTableWord 64 0x41000001436674BC = some (.readRspF32 0x00 0x00 0x01 0x436674BC) ∧
  decodeTableWord 64 0x4200000500001234 = some (.readRspU32 0x00 0x00 0x05 0x00001234)

/-- A row's word that is placed is what the next step runs (log entry 2): the step is `exec` of the decoded instruction,
in every state. -/
def Obligations.PlacedWordsRunNext : Prop :=
  ∀ (s : State) (nbits w : Nat) (i : Instr), decodeTableWord nbits w = some i →
    ∃ inp : Inputs, step (s.withFetchWord nbits w) = exec i { s with inp := inp } ∧
      (i.format ≠ .cmd → inp = s.inp)

/-! ### Pseudo-operations of the user -/

/-- 30_encoding.md section 5 and 70_reset_and_hazards.md section 3 (type-tag discipline): READ_FLOAT_REPLY and
READ_UINT_REPLY give a value exactly for a reply of 8 bytes or more with the expected tag, and it is the value DEC_F32
or DEC_U32 gives for the four value bytes; any other reply is absent. -/
def Obligations.RepliesNeedTheExpectedTag : Prop :=
  ∀ (pl : Payload) (len : BitVec 4) (st : State),
    (∀ d, readFloatReply pl len = some d ↔ 8 ≤ len.toNat ∧ pl.b0 = 0x41 ∧
      exec (.decF32 ⟨pl.b4, pl.b5, pl.b6, pl.b7⟩) st =
        .next { st with rspValid := true, rsp := { Rsp.zero with fval := d } }) ∧
    (∀ u, readUintReply pl len = some u ↔ 8 ≤ len.toNat ∧ pl.b0 = 0x42 ∧
      exec (.decU32 ⟨pl.b4, pl.b5, pl.b6, pl.b7⟩) st =
        .next { st with rspValid := true, rsp := { Rsp.zero with uval := u } })

/-- 30_encoding.md section 5: READ_FRAME and WRITE_FRAME give, for operands that fit, the frame of ENC_ARBID with flag 1
and of ENC_RDREQ or ENC_WRREQ; WRITE_FRAME of a float that does not encode, and either with an operand that does not
fit, gives none. -/
def Obligations.FramesAreIdentifierAndPayload : Prop :=
  ∀ (p d s g : Nat) (reg : Byte) (v : WriteValue) (st t u w : State),
    exec (.encArbid p 1 d s g) st = .next t → exec (.encRdreq reg) st = .next u →
    exec (.encWrreq reg v) st = .next w →
    readFrame p d s g reg = (if t.rsp.status = 0 then some ⟨t.rsp.id, u.rsp.pl⟩ else none) ∧
    writeFrame p d s g reg v =
      (if t.rsp.status = 0 ∧ w.rsp.status = 0 then some ⟨t.rsp.id, w.rsp.pl⟩ else none)
end

