-- ==== Sys2Proof/Laws/Bits.lean ====
section
/-! SUPPORT. Byte order and identifier fields as numbers. -/

namespace Sys2Proof.Machine

/-- The number of a value field (R29). -/
theorem unbe32_toNat (v : ValueField) :
    (unbe32 v).toNat = v.v0.toNat * 2 ^ 24 + v.v1.toNat * 2 ^ 16 + v.v2.toNat * 2 ^ 8 + v.v3.toNat := by
  obtain ⟨a, b, c, d⟩ := v
  simp only [unbe32, BitVec.toNat_append]
  rw [← Nat.shiftLeft_add_eq_or_of_lt d.isLt, ← Nat.shiftLeft_add_eq_or_of_lt c.isLt,
    ← Nat.shiftLeft_add_eq_or_of_lt b.isLt]
  simp only [Nat.shiftLeft_eq]
  omega

/-- The bytes of a number, most significant first (R29). -/
theorem be32_bytes (u : BitVec 32) :
    (be32 u).v0.toNat = u.toNat / 2 ^ 24 ∧ (be32 u).v1.toNat = u.toNat / 2 ^ 16 % 256 ∧
      (be32 u).v2.toNat = u.toNat / 2 ^ 8 % 256 ∧ (be32 u).v3.toNat = u.toNat % 256 := by
  have := u.isLt
  simp only [be32, BitVec.extractLsb'_toNat, Nat.shiftRight_eq_div_pow, Nat.pow_zero, Nat.div_one]
  refine ⟨?_, trivial, trivial, trivial⟩
  omega

/-- A number whose low bits are clear, OR a number of those bits only, is their sum. -/
theorem or_eq_add_of_dvd {a b k : Nat} (ha : 2 ^ k ∣ a) (hb : b < 2 ^ k) : a ||| b = a + b := by
  obtain ⟨c, rfl⟩ := ha
  have := Nat.shiftLeft_add_eq_or_of_lt hb c
  rw [Nat.shiftLeft_eq, Nat.mul_comm] at this
  exact this.symm

/-- The shifted fields of a valid identifier do not overlap, so OR is sum (R41, R62). -/
theorem idNumber_eq_sum {p f d s g : Nat} (hf : f < 2) (hd : d < 256) (hs : s < 256) (hg : g < 8) :
    idNumber p f d s g = p * 2 ^ 20 + f * 2 ^ 19 + d * 2 ^ 11 + s * 2 ^ 3 + g := by
  simp only [idNumber, Nat.shiftLeft_eq]
  rw [or_eq_add_of_dvd (a := p * 2 ^ 20) (k := 20) (by omega) (by omega),
    or_eq_add_of_dvd (b := d * 2 ^ 11) (k := 19) (by omega) (by omega),
    or_eq_add_of_dvd (b := s * 2 ^ 3) (k := 11) (by omega) (by omega),
    or_eq_add_of_dvd (b := g) (k := 3) (by omega) (by omega)]

/-- The identifier of fields that fit is their sum; no bit is cut off (R40, R62). -/
theorem packId_toNat {p f d s g : Nat} (hp : p < 512) (hf : f < 2) (hd : d < 256) (hs : s < 256) (hg : g < 8) :
    (packId p f d s g).toNat = p * 2 ^ 20 + f * 2 ^ 19 + d * 2 ^ 11 + s * 2 ^ 3 + g := by
  rw [packId, BitVec.toNat_ofNat, idNumber_eq_sum hf hd hs hg]
  exact Nat.mod_eq_of_lt (by omega)

/-- The fields of an identifier as quotients and remainders (R42). -/
theorem idFields_toNat (id : BitVec 29) :
    (idProtno id).toNat = id.toNat / 2 ^ 20 ∧ (idFlag id).toNat = id.toNat / 2 ^ 19 % 2 ∧
      (idDest id).toNat = id.toNat / 2 ^ 11 % 256 ∧ (idSrc id).toNat = id.toNat / 2 ^ 3 % 256 ∧
      (idGroup id).toNat = id.toNat % 8 := by
  have := id.isLt
  simp only [idProtno, idFlag, idDest, idSrc, idGroup, BitVec.extractLsb'_toNat, Nat.shiftRight_eq_div_pow,
    Nat.pow_zero, Nat.div_one]
  refine ⟨?_, trivial, trivial, trivial, trivial⟩
  omega

end Sys2Proof.Machine
end

