-- ==== Sys2Proof/Laws/State.lean ====
section
/-! SUPPORT. One lemma per field per update of the state. -/

namespace Sys2Proof.Machine

@[simp] theorem State.hold_rspValid (s : State) (r : Rsp) : (s.hold r).rspValid = true := rfl
@[simp] theorem State.hold_rsp (s : State) (r : Rsp) : (s.hold r).rsp = r := rfl
@[simp] theorem State.hold_inp (s : State) (r : Rsp) : (s.hold r).inp = s.inp := rfl
@[simp] theorem State.hold_stim (s : State) (r : Rsp) : (s.hold r).stim = s.stim := rfl

@[simp] theorem State.empty_rspValid (s : State) : s.empty.rspValid = false := rfl
@[simp] theorem State.empty_rsp (s : State) : s.empty.rsp = s.rsp := rfl
@[simp] theorem State.empty_inp (s : State) : s.empty.inp = s.inp := rfl
@[simp] theorem State.empty_stim (s : State) : s.empty.stim = s.stim := rfl

@[simp] theorem State.setInp_rspValid (s : State) (i : Inputs) : (s.setInp i).rspValid = s.rspValid := rfl
@[simp] theorem State.setInp_rsp (s : State) (i : Inputs) : (s.setInp i).rsp = s.rsp := rfl
@[simp] theorem State.setInp_inp (s : State) (i : Inputs) : (s.setInp i).inp = i := rfl
@[simp] theorem State.setInp_stim (s : State) (i : Inputs) : (s.setInp i).stim = s.stim := rfl

@[simp] theorem State.setStim_rspValid (s : State) (l : List Stimulus) : (s.setStim l).rspValid = s.rspValid := rfl
@[simp] theorem State.setStim_rsp (s : State) (l : List Stimulus) : (s.setStim l).rsp = s.rsp := rfl
@[simp] theorem State.setStim_inp (s : State) (l : List Stimulus) : (s.setStim l).inp = s.inp := rfl
@[simp] theorem State.setStim_stim (s : State) (l : List Stimulus) : (s.setStim l).stim = l := rfl

@[simp] theorem State.putId_rspValid (s : State) (v : BitVec 29) : (s.putId v).rspValid = s.rspValid := rfl
@[simp] theorem State.putId_rsp (s : State) (v : BitVec 29) : (s.putId v).rsp = s.rsp := rfl
@[simp] theorem State.putId_stim (s : State) (v : BitVec 29) : (s.putId v).stim = s.stim := rfl
@[simp] theorem State.putId_id (s : State) (v : BitVec 29) : (s.putId v).inp.cmd.id = v := rfl

@[simp] theorem State.putPayload_rspValid (s : State) (p : Payload) : (s.putPayload p).rspValid = s.rspValid := rfl
@[simp] theorem State.putPayload_rsp (s : State) (p : Payload) : (s.putPayload p).rsp = s.rsp := rfl
@[simp] theorem State.putPayload_stim (s : State) (p : Payload) : (s.putPayload p).stim = s.stim := rfl
@[simp] theorem State.putPayload_pl (s : State) (p : Payload) : (s.putPayload p).inp.cmd.pl = p := rfl
@[simp] theorem State.putPayload_len (s : State) (p : Payload) : (s.putPayload p).inp.cmd.len = 8 := rfl

@[simp] theorem State.putValue_rspValid (s : State) (v : ValueField) : (s.putValue v).rspValid = s.rspValid := rfl
@[simp] theorem State.putValue_rsp (s : State) (v : ValueField) : (s.putValue v).rsp = s.rsp := rfl
@[simp] theorem State.putValue_stim (s : State) (v : ValueField) : (s.putValue v).stim = s.stim := rfl
@[simp] theorem State.putValue_raw (s : State) (v : ValueField) : (s.putValue v).inp.cmd.raw = v := rfl

/-- A wire object put on its port leaves the response register as it was. -/
theorem State.putWire_keeps_response (s : State) (o : WireObject) :
    (s.putWire o).rspValid = s.rspValid ∧ (s.putWire o).rsp = s.rsp ∧ (s.putWire o).stim = s.stim := by
  cases o <;> exact ⟨rfl, rfl, rfl⟩

end Sys2Proof.Machine
end

