-- ==== Sys2Proof/Laws/Ops.lean ====
section
/-! SUPPORT. What each shared operation can do, said once. -/

namespace Sys2Proof.Machine

/-- A command's end: its response stands in the register, whatever stood there before (R12, R109). -/
theorem answer_eq (r : Response) (s : State) : answer r s = .next (s.hold r.signals) := by
  cases r <;> rfl

theorem complete_eq (r : Result) (s : State) : complete r s = .next (s.hold r.signals) := rfl

theorem raise_eq (e : Err) (s : State) : raise e s = .next (s.hold e.signals) := rfl

@[simp] theorem Result.signals_status (r : Result) : r.signals.status = 0 := by cases r <;> rfl
@[simp] theorem Result.signals_info (r : Result) : r.signals.info = 0 := by cases r <;> rfl
@[simp] theorem Err.signals_status (e : Err) : e.signals.status = e.status := rfl
@[simp] theorem Err.signals_info (e : Err) : e.signals.info = e.info := rfl

theorem Err.status_ne_ok (e : Err) : e.status ≠ 0 := by cases e <;> simp [Err.status]

/-- Acceptance needs a presented command and a register that is empty or being emptied (R12). -/
theorem State.accept_iff (s : State) :
    s.accept = true ↔ s.inp.cmdValid = true ∧ (s.rspValid = false ∨ s.inp.rspReady = true) := by
  simp [State.accept, State.cmdReady]

/-- A response is taken when one is held and the user is ready (R12). -/
theorem State.take_iff (s : State) : s.take = true ↔ s.rspValid = true ∧ s.inp.rspReady = true := by
  simp [State.take]

/-- Where a command is accepted over a held response, that response is taken on the same edge (R12). -/
theorem State.take_of_accept {s : State} (h : s.accept = true) (hv : s.rspValid = true) : s.take = true := by
  simp_all [State.accept, State.cmdReady, State.take]


end Sys2Proof.Machine
end

