-- ==== Sys2Proof/Laws/Exec.lean ====
section
/-! SUPPORT. What exec and a step can do, said once. -/

namespace Sys2Proof.Machine

/-- A command's meaning is its response, delivered (R12, R15). -/
theorem exec_of_respond {i : Instr} {r : Response} (h : respond i = some r) (s : State) :
    exec i s = .next (s.hold r.signals) := by
  rw [← answer_eq]
  cases i <;> cases h <;> rfl

/-- A decoded command has a response: every code of `cmd_op` does (R15). -/
theorem respond_decodeCommand (c : CmdPort) : ∃ r, respond (decodeCommand c) = some r := by
  unfold decodeCommand
  split <;> exact ⟨_, rfl⟩

/-- A wire row's meaning is the object it decodes from, put on its port. -/
theorem exec_of_wire {i : Instr} (h : respond i = none) (s : State) :
    ∃ o, encode i = .wire o ∧ exec i s = .next (s.putWire o) := by
  cases i <;> simp only [respond, reduceCtorEq] at h <;> exact ⟨_, rfl, rfl⟩

/-- A wire object is decoded into a wire row. -/
theorem respond_decodeWire {o : WireObject} {i : Instr} (h : decodeWire o = .ok i) : respond i = none := by
  cases o with
  | identifier id => cases h; rfl
  | value v => cases h; rfl
  | payload pl =>
    simp only [decodeWire, decodePayload] at h
    split_ifs at h <;> cases h <;> rfl

/-- Everything a rising edge can do (R12). -/
theorem clockEdge_cases {s t : State} (h : clockEdge s = .next t) :
    (s.inp.rst = true ∧ t = s.empty) ∨
    (s.inp.rst = false ∧ s.accept = true ∧
      ∃ r, respond (decodeCommand s.inp.cmd) = some r ∧ t = s.hold r.signals) ∨
    (s.inp.rst = false ∧ s.accept = false ∧ s.take = true ∧ t = s.empty) ∨
    (s.inp.rst = false ∧ s.accept = false ∧ s.take = false ∧ t = s) := by
  unfold clockEdge at h
  split_ifs at h with h1 h2 h3
  · cases h; exact .inl ⟨h1, rfl⟩
  · obtain ⟨r, hr⟩ := respond_decodeCommand s.inp.cmd
    rw [exec_of_respond hr] at h
    cases h
    exact .inr (.inl ⟨by simpa using h1, h2, r, hr, rfl⟩)
  · cases h; exact .inr (.inr (.inl ⟨by simpa using h1, by simpa using h2, h3, rfl⟩))
  · cases h; exact .inr (.inr (.inr ⟨by simpa using h1, by simpa using h2, by simpa using h3, rfl⟩))

/-- A wire object put on its port leaves the response register, its valid bit and the list of events as they were. -/
theorem presentWire_cases {o : WireObject} {s t : State} (h : presentWire o s = .next t) :
    ∃ o', t = s.putWire o' := by
  unfold presentWire at h
  split at h
  · rename_i i hi
    obtain ⟨o', -, he⟩ := exec_of_wire (respond_decodeWire hi) s
    rw [he] at h
    cases h
    exact ⟨o', rfl⟩
  · cases h; exact ⟨o, rfl⟩

/-- Everything a step can do: the inputs are driven, a wire object comes, or the clock rises. -/
theorem step_cases {s t : State} (h : step s = .next t) :
    (∃ i, nextEvent s = .drive i ∧ t = (s.setStim s.stim.tail).setInp i) ∨
    (∃ o o', nextEvent s = .present o ∧ t = (s.setStim s.stim.tail).putWire o') ∨
    (nextEvent s = .clock ∧ clockEdge (s.setStim s.stim.tail) = .next t) := by
  unfold step runEvent at h
  split at h <;> rename_i he
  · cases h; exact .inl ⟨_, he, rfl⟩
  · exact .inr (.inr ⟨he, h⟩)
  · obtain ⟨o', ho⟩ := presentWire_cases h
    exact .inr (.inl ⟨_, o', he, ho⟩)

end Sys2Proof.Machine
end

