-- ==== Sys2Proof/Laws/Float.lean ====
section
/-! SUPPORT. Fields of a built pattern, and what rounding gives. -/

namespace Sys2Proof.Machine

/-- The number of a binary32 pattern built from sign and magnitude. -/
theorem withSign32_toNat (s : BitVec 1) {m : Nat} (hm : m < 2 ^ 31) :
    (withSign32 s m).toNat = s.toNat * 2 ^ 31 + m := by
  rw [withSign32, BitVec.toNat_append, BitVec.toNat_ofNat, Nat.mod_eq_of_lt hm,
    ← Nat.shiftLeft_add_eq_or_of_lt hm, Nat.shiftLeft_eq]

/-- The number of a binary64 pattern built from sign and magnitude. -/
theorem withSign64_toNat (s : BitVec 1) {m : Nat} (hm : m < 2 ^ 63) :
    (withSign64 s m).toNat = s.toNat * 2 ^ 63 + m := by
  rw [withSign64, BitVec.toNat_append, BitVec.toNat_ofNat, Nat.mod_eq_of_lt hm,
    ← Nat.shiftLeft_add_eq_or_of_lt hm, Nat.shiftLeft_eq]

/-- The fields of a binary32 pattern by its number (R80). -/
theorem fields32 (w : F32) :
    (sign32 w).toNat = w.toNat / 2 ^ 31 ∧ exp32 w = w.toNat / 2 ^ 23 % 2 ^ 8 ∧ frac32 w = w.toNat % 2 ^ 23 := by
  have := w.isLt
  simp only [sign32, exp32, frac32, BitVec.extractLsb'_toNat, Nat.shiftRight_eq_div_pow, Nat.pow_zero, Nat.div_one]
  refine ⟨?_, trivial, trivial⟩
  omega

/-- The fields of a binary64 pattern by its number (R81). -/
theorem fields64 (d : F64) :
    (sign64 d).toNat = d.toNat / 2 ^ 63 ∧ exp64 d = d.toNat / 2 ^ 52 % 2 ^ 11 ∧ frac64 d = d.toNat % 2 ^ 52 := by
  have := d.isLt
  simp only [sign64, exp64, frac64, BitVec.extractLsb'_toNat, Nat.shiftRight_eq_div_pow, Nat.pow_zero, Nat.div_one]
  refine ⟨?_, trivial, trivial⟩
  omega

/-- The fields of a built binary32 pattern. -/
theorem withSign32_fields (s : BitVec 1) {m : Nat} (hm : m < 2 ^ 31) :
    sign32 (withSign32 s m) = s ∧ exp32 (withSign32 s m) = m / 2 ^ 23 ∧ frac32 (withSign32 s m) = m % 2 ^ 23 := by
  obtain ⟨h1, h2, h3⟩ := fields32 (withSign32 s m)
  rw [withSign32_toNat s hm] at h1 h2 h3
  have := s.isLt
  refine ⟨BitVec.eq_of_toNat_eq ?_, ?_, ?_⟩ <;> omega

/-- The fields of a built binary64 pattern. -/
theorem withSign64_fields (s : BitVec 1) {m : Nat} (hm : m < 2 ^ 63) :
    sign64 (withSign64 s m) = s ∧ exp64 (withSign64 s m) = m / 2 ^ 52 ∧ frac64 (withSign64 s m) = m % 2 ^ 52 := by
  obtain ⟨h1, h2, h3⟩ := fields64 (withSign64 s m)
  rw [withSign64_toNat s hm] at h1 h2 h3
  have := s.isLt
  refine ⟨BitVec.eq_of_toNat_eq ?_, ?_, ?_⟩ <;> omega

/-- Rounding gives the nearest multiple of 2^shift, and an even one in a tie (R86). -/
theorem roundNearestEven_spec (sig : Nat) {shift : Nat} (hs : 0 < shift) :
    2 * sig ≤ (2 * roundNearestEven sig shift + 1) * 2 ^ shift ∧
      (2 * roundNearestEven sig shift) * 2 ^ shift ≤ 2 * sig + 2 ^ shift ∧
      ((2 * sig = (2 * roundNearestEven sig shift + 1) * 2 ^ shift ∨
        (2 * roundNearestEven sig shift) * 2 ^ shift = 2 * sig + 2 ^ shift) →
        roundNearestEven sig shift % 2 = 0) := by
  obtain ⟨k, rfl⟩ : ∃ k, shift = k + 1 := ⟨shift - 1, by omega⟩
  have hdiv := Nat.div_add_mod sig (2 ^ (k + 1))
  have hlt := Nat.mod_lt sig (Nat.two_pow_pos (k + 1))
  have hpow : 2 ^ (k + 1) = 2 * 2 ^ k := by rw [Nat.pow_succ]; omega
  simp only [roundNearestEven, Nat.shiftRight_eq_div_pow, Nat.one_shiftLeft, Nat.and_two_pow_sub_one_eq_mod,
    Nat.add_sub_cancel]
  generalize sig / 2 ^ (k + 1) = m at *
  generalize sig % 2 ^ (k + 1) = r at *
  rw [hpow] at *
  generalize 2 ^ k = h at *
  split <;> rename_i hc
  · refine ⟨by nlinarith, by rcases hc with hc | ⟨hc, -⟩ <;> nlinarith, ?_⟩
    intro ht
    rcases hc with hc | ⟨hc, hm⟩
    · rcases ht with ht | ht <;> nlinarith
    · omega
  · push Not at hc
    refine ⟨by nlinarith, by nlinarith, ?_⟩
    intro ht
    rcases ht with ht | ht
    · by_contra hm
      exact absurd (hc.2 (by nlinarith)) (by omega)
    · nlinarith

/-- Rounding stays within one of the quotient. -/
theorem roundNearestEven_bounds (sig shift : Nat) :
    sig >>> shift ≤ roundNearestEven sig shift ∧ roundNearestEven sig shift ≤ sig >>> shift + 1 := by
  simp only [roundNearestEven]
  split <;> omega

/-- Whatever NAN_NARROW draws is a binary32 NaN (R87). -/
theorem nanNarrow_isNan (d : F64) : isNan32 (nanNarrow d) = true := by
  have hb := (Config.nanNarrow d).2.isLt
  obtain ⟨-, he, hf⟩ := withSign32_fields (Config.nanNarrow d).1
    (m := 0x7F800000 + ((Config.nanNarrow d).2.val + 1)) (by omega)
  simp only [isNan32, nanNarrow, he, hf, Bool.and_eq_true, beq_iff_eq, bne_iff_ne]
  omega

/-- Whatever NAN_WIDEN draws is a binary64 NaN (R89). -/
theorem nanWiden_isNan (w : F32) : isNan64 (nanWiden w) = true := by
  have hb := (Config.nanWiden w).2.isLt
  obtain ⟨-, he, hf⟩ := withSign64_fields (Config.nanWiden w).1
    (m := 0x7FF0000000000000 + ((Config.nanWiden w).2.val + 1)) (by omega)
  simp only [isNan64, nanWiden, he, hf, Bool.and_eq_true, beq_iff_eq, bne_iff_ne]
  omega

end Sys2Proof.Machine
end

