-- ==== Sys2Proof/Laws/PerInstr.lean ====
section
/-! SUPPORT. Per-instruction statements: the encoder presents each instruction in the format its table row has. -/

namespace Sys2Proof

namespace Laws.TableFormat

/-- The encoder presents the instruction in its row's format. -/
def Statement (i : Instr) : Prop := (encode i).format = i.format

theorem encArbid (p : Nat) (f : BitVec 1) (d s g : Nat) : Statement (.encArbid p f d s g) := rfl
theorem decArbid (id : BitVec 29) : Statement (.decArbid id) := rfl
theorem encRdreq (reg : Byte) : Statement (.encRdreq reg) := rfl
theorem encWrreq (reg : Byte) (value : WriteValue) : Statement (.encWrreq reg value) := by cases value <;> rfl
theorem decRdrsp (pl : Payload) (len : BitVec 4) : Statement (.decRdrsp pl len) := rfl
theorem encF32 (fval : F64) : Statement (.encF32 fval) := rfl
theorem encU32 (uval : BitVec 32) : Statement (.encU32 uval) := rfl
theorem decF32 (raw : ValueField) : Statement (.decF32 raw) := rfl
theorem decU32 (raw : ValueField) : Statement (.decU32 raw) := rfl
theorem illegal0 : Statement .illegal0 := rfl
theorem illegalA : Statement .illegalA := rfl
theorem illegalB : Statement .illegalB := rfl
theorem illegalC : Statement .illegalC := rfl
theorem illegalD : Statement .illegalD := rfl
theorem illegalE : Statement .illegalE := rfl
theorem illegalF : Statement .illegalF := rfl
theorem arbid (p : BitVec 9) (f : BitVec 1) (d s : BitVec 8) (g : BitVec 3) : Statement (.arbid p f d s g) := rfl
theorem readReq (reg : Byte) : Statement (.readReq reg) := rfl
theorem writeReq (reg : Byte) (value : BitVec 32) : Statement (.writeReq reg value) := rfl
theorem readRspF32 (e1 e2 e3 : Byte) (value : BitVec 32) : Statement (.readRspF32 e1 e2 e3 value) := rfl
theorem readRspU32 (e1 e2 e3 : Byte) (value : BitVec 32) : Statement (.readRspU32 e1 e2 e3 value) := rfl
theorem valueField (value : BitVec 32) : Statement (.valueField value) := rfl

end Laws.TableFormat

end Sys2Proof
end

