-- ==== Sys2Proof/Tests/Slice0.lean ====
section
/-! SUPPORT. Tests: expected results are the vectors of spec/95_test_vectors.md (named V<n>, S<n> or P<n>) and the words of
30_encoding.md, written out by hand; and a witness for the hypotheses of each obligation. -/

namespace Sys2Proof.Tests

open Sys2Proof.Machine

/-- The response register after one command from reset. -/
def rspOf (i : Instr) : Option Rsp :=
  match exec i State.reset with
  | .next t => some t.rsp
  | _ => none

/-- The response register and its valid bit after one step. -/
def after (s : State) : Option (Bool × Rsp) :=
  match step s with
  | .next t => some (t.rspValid, t.rsp)
  | _ => none

/-- The inputs after one instruction from reset. -/
def inpOf (i : Instr) : Option CmdPort :=
  match exec i State.reset with
  | .next t => some t.inp.cmd
  | _ => none

/-- A state whose next step is a clock edge with a command presented. -/
def presenting (rst valid ready held : Bool) (i : Instr) : State :=
  match encode i with
  | .command c => { State.reset with rspValid := held, inp := ⟨rst, valid, ready, c⟩ }
  | .wire o => { State.reset with stim := [.present o] }

/-- A response to recognise in the register. -/
def heldRsp : Rsp := { Rsp.zero with uval := 0x99 }

/-! ### WellFormed: each check refuses -/

theorem test_wf_protno : (Instr.encArbid 0x10000 0 0 0 0).wf = false := by decide
theorem test_wf_dest : (Instr.encArbid 0 0 0x10000 0 0).wf = false := by decide
theorem test_wf_src : (Instr.encArbid 0 0 0 0x10000 0).wf = false := by decide
theorem test_wf_group : (Instr.encArbid 0 0 0 0 0x10000).wf = false := by decide
theorem test_wf_misfit_is_presentable : (Instr.encArbid 0xFFFF 1 0xFFFF 0xFFFF 0xFFFF).wf = true := by decide

/-! ### Decoding: words written from R50, R51, R40, R43 to R45, R29 -/

theorem test_decode_operations :
    decodeTableWord 8 0b0001 = some (.encArbid 0 0 0 0 0) ∧ decodeTableWord 8 0b0010 = some (.decArbid 0) ∧
    decodeTableWord 8 0b0011 = some (.encRdreq 0) ∧ decodeTableWord 8 0b0100 = some (.encWrreq 0 (.uint 0)) ∧
    decodeTableWord 8 0b0101 = some (.decRdrsp .zero 0) ∧ decodeTableWord 8 0b0110 = some (.encF32 0) ∧
    decodeTableWord 8 0b0111 = some (.encU32 0) ∧ decodeTableWord 8 0b1000 = some (.decF32 .zero) ∧
    decodeTableWord 8 0b1001 = some (.decU32 .zero) := by decide

theorem test_decode_unassigned :
    decodeTableWord 8 0b0000 = some .illegal0 ∧ decodeTableWord 8 0b1010 = some .illegalA ∧
    decodeTableWord 8 0b1011 = some .illegalB ∧ decodeTableWord 8 0b1100 = some .illegalC ∧
    decodeTableWord 8 0b1101 = some .illegalD ∧ decodeTableWord 8 0b1110 = some .illegalE ∧
    decodeTableWord 8 0b1111 = some .illegalF := by decide

/-- The pattern PPPPPPPPPFDDDDDDDDSSSSSSSSGGG of R40, written out field by field (V6). -/
theorem test_decode_arbid :
    decodeTableWord 29 0b10101010111010101001010101010 = some (.arbid 0x155 1 0xAA 0x55 2) := by decide

theorem test_decode_payloads :
    decodeTableWord 64 0x1000007F00000000 = some (.readReq 0x7F) ∧
    decodeTableWord 64 0x030000FF12345678 = some (.writeReq 0xFF 0x12345678) ∧
    decodeTableWord 64 0x41AABBCC3E800000 = some (.readRspF32 0xAA 0xBB 0xCC 0x3E800000) ∧
    decodeTableWord 64 0x4200000500001234 = some (.readRspU32 0x00 0x00 0x05 0x00001234) := by decide

theorem test_decode_value_field :
    decode (.wire (.value ⟨0x12, 0x34, 0x56, 0x78⟩)) = .ok (.valueField 0x12345678) ∧
    decodeTableWord 32 0x3E800000 = some (.valueField 0x3E800000) := by decide

theorem test_decode_rejects :
    decodePayload ⟨0x43, 0, 0, 0, 0, 0, 0, 0⟩ = .error .noPayloadFormat ∧
    decodePayload ⟨0x10, 0, 0, 1, 0, 0, 0, 1⟩ = .error .noPayloadFormat ∧
    tableWord 8 0x10 = .error .bitsAboveWidth ∧ tableWord 16 0 = .error .noSuchWidth := by decide

/-- R73: `cmd_is_float` selects the value port (V34: the other is ignored). -/
theorem test_decode_write_value :
    decodeCommand { CmdPort.ofOp 4 with reg := 0x30, isFloat := 0, uval := 1, fval := 0x47F0000000000000 } =
      .encWrreq 0x30 (.uint 1) ∧
    decodeCommand { CmdPort.ofOp 4 with reg := 0x21, isFloat := 1, uval := 7, fval := 0x3FD0000000000000 } =
      .encWrreq 0x21 (.float 0x3FD0000000000000) := by decide

/-! ### The nine operations -/

/-- V3. -/
theorem test_encArbid_ok :
    rspOf (.encArbid 0x060 1 0x01 0xF0 0) = some { Rsp.zero with id := 0x06080F80 } := by decide
/-- V16, V17, V13, V19: first misfit in argument order. -/
theorem test_encArbid_misfit :
    rspOf (.encArbid 0x200 0 0x100 0x100 8) = some { Rsp.zero with status := 1, info := 0 } ∧
    rspOf (.encArbid 0x1FF 0 0xFF 0x100 8) = some { Rsp.zero with status := 1, info := 3 } ∧
    rspOf (.encArbid 0 0 0x100 0 0) = some { Rsp.zero with status := 1, info := 2 } ∧
    rspOf (.encArbid 0 1 0 0 0xFFFF) = some { Rsp.zero with status := 1, info := 4 } := by decide
/-- V43. -/
theorem test_decArbid :
    rspOf (.decArbid 0x06078008) =
      some { Rsp.zero with protno := 0x060, flag := 0, dest := 0xF0, src := 0x01, group := 0 } := by decide
/-- V45: bit 28 is the top bit of `protno`. -/
theorem test_decArbid_top_bit : rspOf (.decArbid 0x10000000) = some { Rsp.zero with protno := 0x100 } := by decide
/-- V22. -/
theorem test_encRdreq :
    rspOf (.encRdreq 0x7F) = some { Rsp.zero with pl := ⟨0x10, 0, 0, 0x7F, 0, 0, 0, 0⟩ } := by decide
/-- V24, V29. -/
theorem test_encWrreq :
    rspOf (.encWrreq 0x21 (.float 0x3FD0000000000000)) =
      some { Rsp.zero with pl := ⟨0x03, 0, 0, 0x21, 0x3E, 0x80, 0, 0⟩ } ∧
    rspOf (.encWrreq 0xFF (.uint 0x12345678)) =
      some { Rsp.zero with pl := ⟨0x03, 0, 0, 0xFF, 0x12, 0x34, 0x56, 0x78⟩ } := by decide
/-- V31: no payload with RANGE_ERROR. -/
theorem test_encWrreq_overflow :
    rspOf (.encWrreq 0x21 (.float 0x47EFFFFFF0000000)) = some { Rsp.zero with status := 1, info := 5 } := by decide
/-- V52, V61. -/
theorem test_decRdrsp :
    rspOf (.decRdrsp ⟨0x41, 0xAA, 0xBB, 0xCC, 0x3E, 0x80, 0, 0⟩ 8) =
      some { Rsp.zero with tag := 0x41, raw := ⟨0x3E, 0x80, 0, 0⟩ } ∧
    rspOf (.decRdrsp ⟨0x42, 0, 0, 0, 0x80, 0, 0, 0⟩ 15) =
      some { Rsp.zero with tag := 0x42, raw := ⟨0x80, 0, 0, 0⟩ } := by decide
/-- V59: the length decides, not the port contents. -/
theorem test_decRdrsp_short :
    rspOf (.decRdrsp ⟨0x41, 0, 0, 1, 0x43, 0x66, 0x74, 0xBC⟩ 7) = some { Rsp.zero with status := 2 } := by decide
/-- V75, V81, V84, V85, V96, V99, V101, V103. -/
theorem test_narrow_rounds :
    (narrow 0x406CCE978D4FDF3B).toOption = some 0x436674BC ∧ (narrow 0x3FF0000030000000).toOption = some 0x3F800002 ∧
    (narrow 0x47EFFFFFEFFFFFFF).toOption = some 0x7F7FFFFF ∧ (narrow 0x47EFFFFFF0000000).toOption = none ∧
    (narrow 0x380FFFFFE0000000).toOption = some 0x00800000 ∧ (narrow 0x36A8000000000000).toOption = some 0x00000002 ∧
    (narrow 0x3690000000000000).toOption = some 0x00000000 ∧ (narrow 0xB690000000000001).toOption = some 0x80000001 := by
  decide
/-- V91, V88. -/
theorem test_encF32 :
    rspOf (.encF32 0xFFF0000000000000) = some { Rsp.zero with raw := ⟨0xFF, 0x80, 0, 0⟩ } ∧
    rspOf (.encF32 0x48078287F49C4A1D) = some { Rsp.zero with status := 1, info := 5 } := by decide
/-- V116. -/
theorem test_encU32 : rspOf (.encU32 0x00011234) = some { Rsp.zero with raw := ⟨0, 1, 0x12, 0x34⟩ } := by decide
/-- V125, V140, V138. -/
theorem test_decF32 :
    rspOf (.decF32 ⟨0x43, 0x66, 0x74, 0xBC⟩) = some { Rsp.zero with fval := 0x406CCE9780000000 } ∧
    rspOf (.decF32 ⟨0x00, 0x7F, 0xFF, 0xFF⟩) = some { Rsp.zero with fval := 0x380FFFFFC0000000 } ∧
    rspOf (.decF32 ⟨0x00, 0x00, 0x00, 0x03⟩) = some { Rsp.zero with fval := 0x36B8000000000000 } := by decide
/-- V114: 2147483648, not negative. -/
theorem test_decU32 : rspOf (.decU32 ⟨0x80, 0, 0, 0⟩) = some { Rsp.zero with uval := 0x80000000 } := by decide
/-- V151, V152. -/
theorem test_illegal :
    rspOf .illegalA = some { Rsp.zero with status := 3 } ∧ rspOf .illegalF = some { Rsp.zero with status := 3 } := by
  decide

/-! ### The wire formats -/

/-- V6: the identifier stands on `cmd_id`. -/
theorem test_arbid : inpOf (.arbid 0x155 1 0xAA 0x55 2) = some { CmdPort.zero with id := 0x155D52AA } := by decide
/-- V24: a write request handed back. -/
theorem test_writeReq :
    inpOf (.writeReq 0x21 0x3E800000) =
      some { CmdPort.zero with pl := ⟨0x03, 0, 0, 0x21, 0x3E, 0x80, 0, 0⟩, len := 8 } := by decide
/-- V51. -/
theorem test_readRspU32 :
    inpOf (.readRspU32 0 0 5 0x1234) =
      some { CmdPort.zero with pl := ⟨0x42, 0, 0, 5, 0, 0, 0x12, 0x34⟩, len := 8 } := by decide
/-- V113. -/
theorem test_valueField :
    inpOf (.valueField 0x12345678) = some { CmdPort.zero with raw := ⟨0x12, 0x34, 0x56, 0x78⟩ } := by decide

/-! ### The wrapper: V160, one edge at a time -/

theorem test_edge1_accepts :
    after (presenting false true false false (.encRdreq 1)) =
      some (true, { Rsp.zero with pl := ⟨0x10, 0, 0, 1, 0, 0, 0, 0⟩ }) := by decide
theorem test_edge2_back_pressure :
    after { presenting false true false true (.encRdreq 2) with rsp := heldRsp } = some (true, heldRsp) := by decide
theorem test_edge3_taken_and_replaced :
    after { presenting false true true true (.encRdreq 2) with rsp := heldRsp } =
      some (true, { Rsp.zero with pl := ⟨0x10, 0, 0, 2, 0, 0, 0, 0⟩ }) := by decide
theorem test_edge4_taken :
    (after { presenting false false true true (.encRdreq 2) with rsp := heldRsp }).map Prod.fst = some false := by decide
theorem test_edge5_illegal :
    after (presenting false true false false .illegalF) = some (true, { Rsp.zero with status := 3 }) := by decide
theorem test_edge6_reset_wins :
    (after { presenting true true true true (.encRdreq 3) with rsp := heldRsp }).map Prod.fst = some false := by decide

/-! ### The pseudo-operations -/

/-- P5 and S4: a float is expected and the reply is tagged 0x42. -/
theorem test_reply_with_the_wrong_tag :
    readFloatReply ⟨0x42, 0, 0, 1, 0x43, 0x66, 0x74, 0xBC⟩ 8 = none ∧
    readFloatReply ⟨0x41, 0, 0, 1, 0x43, 0x66, 0x74, 0xBC⟩ 8 = some 0x406CCE9780000000 ∧
    readUintReply ⟨0x42, 0, 0, 0x54, 0, 0, 0x12, 0x34⟩ 8 = some 0x1234 := by decide
/-- P1, steps 1 and 2. -/
theorem test_readFrame :
    readFrame 0x060 0x01 0xF0 0 0x01 = some ⟨0x06080F80, ⟨0x10, 0, 0, 1, 0, 0, 0, 0⟩⟩ := by decide

/-! ### Witnesses: the hypotheses of each obligation that has some, at boundary values -/

theorem test_witness_EncArbidIdentifierIsTheSumOfItsFields :
    0x1FF ≤ 0x1FF ∧ 0xFF ≤ 0xFF ∧ 7 ≤ 7 ∧
    rspOf (.encArbid 0x1FF 1 0xFF 0xFF 7) = some { Rsp.zero with id := 0x1FFFFFFF } := by decide
theorem test_witness_ArbidEncodeAndDecodeAreInverse :
    ∃ t t', exec (.encArbid 0x1FF 1 0xFF 0xFF 7) State.reset = .next t ∧
      exec (.encArbid 0x1FF 1 0xFF 0xFF 7) State.reset = .next t' ∧ t.rsp.id = t'.rsp.id := ⟨_, _, rfl, rfl, rfl⟩
theorem test_witness_DecRdrspReturnsTagAndValueOrIsMalformed :
    (7 : BitVec 4).toNat < 8 ∧ 8 ≤ (8 : BitVec 4).toNat ∧ 8 ≤ (15 : BitVec 4).toNat := by decide
theorem test_witness_MalformedFrameExactlyOnShortReplies :
    (Instr.decRdrsp .zero 7).format = .cmd ∧ rspOf (.decRdrsp .zero 7) = some { Rsp.zero with status := 2 } ∧
    (Instr.encU32 0).format = .cmd ∧ (rspOf (.encU32 0)).isSome = true := by decide
theorem test_witness_RequestsParseAsReplies :
    ∃ w, exec (.encF32 0x3FD0000000000000) State.reset = .next w ∧ w.rsp.status = 0 := ⟨_, rfl, by decide⟩
theorem test_witness_FloatsEncodeBelowTheOverflowMidpoint :
    magnitude64 0xC7EFFFFFEFFFFFFF < 0x47EFFFFFF0000000 ∧ exp64 0xFFF0000000000000 = 2047 ∧
    ¬(exp64 0x47EFFFFFF0000000 = 2047 ∨ magnitude64 0x47EFFFFFF0000000 < 0x47EFFFFFF0000000) ∧
    ¬(exp64 0x7FEFFFFFFFFFFFFF = 2047 ∨ magnitude64 0x7FEFFFFFFFFFFFFF < 0x47EFFFFFF0000000) := by decide
set_option exponentiation.threshold 1100 in
/-- The largest float that encodes, and a tie (V79) whose two neighbours are 0x3F800000 and 0x3F800001. -/
theorem test_witness_EncF32RoundsToNearestEven :
    finite64 0x47EFFFFFEFFFFFFF = true ∧ magnitude64 0x47EFFFFFEFFFFFFF < 0x47EFFFFFF0000000 ∧
    finite32 0x7F7FFFFF = true ∧ finite64 0x3FF0000010000000 = true ∧
    |units64 0x3FF0000010000000 - units32 0x3F800000| = |units64 0x3FF0000010000000 - units32 0x3F800001| := by decide
theorem test_witness_EncF32KeepsZeroAndInfinity :
    exp64 0x8000000000000000 = 0 ∧ exp64 0x000FFFFFFFFFFFFF = 0 ∧
    exp64 0xFFF0000000000000 = 2047 ∧ frac64 0xFFF0000000000000 = 0 := by decide
theorem test_witness_NansStayNans :
    isNan64 0x7FF0000000000001 = true ∧ isNan64 0xFFFFFFFFFFFFFFFF = true ∧
    isNan32 (unbe32 ⟨0x7F, 0x80, 0x00, 0x01⟩) = true := by decide
theorem test_witness_DecF32IsExact :
    finite32 (unbe32 ⟨0x00, 0x00, 0x00, 0x01⟩) = true ∧ finite32 (unbe32 ⟨0xFF, 0x7F, 0xFF, 0xFF⟩) = true := by decide
theorem test_witness_F32FieldsSurviveDecodeAndEncode :
    isNan32 (unbe32 ⟨0x7F, 0x80, 0x00, 0x00⟩) = false ∧ isNan32 (unbe32 ⟨0x00, 0x00, 0x00, 0x01⟩) = false := by decide
theorem test_witness_FloatsAreRecoveredExactlyWhenRepresentable :
    isNan64 0x3FD0000000000000 = false ∧ ∃ t u, exec (.encF32 0x3FD0000000000000) State.reset = .next t ∧
      t.rsp.status = 0 ∧ exec (.decF32 t.rsp.raw) t = .next u := ⟨by decide, _, _, rfl, by decide, rfl⟩
theorem test_witness_UnassignedCodesAnswerIllegalOp :
    Instr.illegal0 ∈ [Instr.illegal0, .illegalA, .illegalB, .illegalC, .illegalD, .illegalE, .illegalF] ∧
    Instr.illegalF ∈ [Instr.illegal0, .illegalA, .illegalB, .illegalC, .illegalD, .illegalE, .illegalF] := by decide
theorem test_witness_UnassignedCodesAreAcceptedAndAnswered :
    ∀ i ∈ [Instr.illegal0, .illegalA, .illegalF], let s := presenting false true false false i
      nextEvent s = .clock ∧ s.inp.rst = false ∧ s.accept = true ∧
      (s.inp.cmd.op.toNat = 0 ∨ 0xA ≤ s.inp.cmd.op.toNat) := by decide
theorem test_witness_RangeErrorHasOnlyTwoCauses :
    (Instr.encArbid 0x200 0 0 0 0).format = .cmd ∧ (rspOf (.encArbid 0x200 0 0 0 0)).isSome = true ∧
    (Instr.encF32 0x47EFFFFFF0000000).format = .cmd ∧ finite64 0x47EFFFFFF0000000 = true ∧
    0x47EFFFFFF0000000 ≤ magnitude64 0x47EFFFFFF0000000 := by decide
theorem test_witness_CommandsWriteOnlyTheResponse : (Instr.decU32 .zero).format = .cmd := by decide
theorem test_witness_ResponsesDependOnTheCommandAlone :
    (Instr.encU32 5).format = .cmd ∧ State.reset ≠ State.reset.hold heldRsp ∧
    ∃ a b, exec (.encU32 5) State.reset = .next a ∧ exec (.encU32 5) (State.reset.hold heldRsp) = .next b :=
  ⟨by decide, by decide, _, _, rfl, rfl⟩
theorem test_witness_CommandsAreIdempotent :
    ∃ t, exec (.arbid 1 0 0 0 0) State.reset = .next t ∧ t ≠ State.reset := ⟨_, rfl, by decide⟩
theorem test_witness_WireObjectsChangeOnlyTheirPort :
    (Instr.arbid 0 0 0 0 0).format ≠ .cmd ∧ (Instr.readReq 0).format ≠ .arbid ∧ (Instr.readReq 0).format ≠ .value ∧
    (Instr.valueField 0).format ≠ .payload := by decide

/-- A wire object to come and then a clock edge, with a command code on the port. -/
def objectThenEdge (o : WireObject) (op : BitVec 4) : State :=
  { State.reset with stim := [.present o, .clock], inp := ⟨false, true, false, CmdPort.ofOp op⟩ }

theorem test_witness_PresentedObjectsAreTakenApart :
    let a := objectThenEdge (.identifier 0x1FFFFFFF) 2
    let b := objectThenEdge (.payload ⟨0xFF, 1, 2, 3, 4, 5, 6, 7⟩) 5
    let c := objectThenEdge (.value ⟨0xFF, 0, 0, 1⟩) 9
    a.inp.rst = false ∧ a.accept = true ∧ a.stim = .present (.identifier 0x1FFFFFFF) :: .clock :: [] ∧ a.inp.cmd.op = 2 ∧
    b.inp.rst = false ∧ b.accept = true ∧ b.stim = .present (.payload ⟨0xFF, 1, 2, 3, 4, 5, 6, 7⟩) :: .clock :: [] ∧
    b.inp.cmd.op = 5 ∧
    c.inp.rst = false ∧ c.accept = true ∧ c.stim = .present (.value ⟨0xFF, 0, 0, 1⟩) :: .clock :: [] ∧
    c.inp.cmd.op = 9 := by decide
theorem test_witness_StepRunsTheAcceptedCommand :
    let s := presenting false true true true (.encU32 7)
    decode (.command s.inp.cmd) = .ok (.encU32 7) ∧ nextEvent s = .clock ∧ s.inp.rst = false ∧ s.accept = true := by
  decide
theorem test_witness_StepRunsTheWireObject :
    (objectThenEdge (.payload ⟨0x41, 0, 0, 0, 0, 0, 0, 0⟩) 5).stim =
      .present (.payload ⟨0x41, 0, 0, 0, 0, 0, 0, 0⟩) :: [.clock] ∧
    decode (.wire (.payload ⟨0x41, 0, 0, 0, 0, 0, 0, 0⟩)) = .ok (.readRspF32 0 0 0 0) ∧
    decode (.wire (.payload ⟨0x43, 0, 0, 0, 0, 0, 0, 0⟩)) = .error .noPayloadFormat := by decide
/-- Each arm of R12: reset, acceptance into the empty register and over a taken response, take, and no change. -/
theorem test_witness_ClockEdgeFollowsTheHandshake :
    (presenting true true true true .illegalF).inp.rst = true ∧
    (∀ s ∈ [presenting false true false false .illegalF, presenting false true true true .illegalF],
      nextEvent s = .clock ∧ s.inp.rst = false ∧ s.inp.cmdValid = true ∧ s.cmdReady = true) ∧
    (let s := presenting false false true true .illegalF
     s.inp.rst = false ∧ ¬(s.inp.cmdValid = true ∧ s.cmdReady = true) ∧ s.rspValid = true ∧ s.inp.rspReady = true) ∧
    (let s := presenting false true false true .illegalF
     s.inp.rst = false ∧ ¬(s.inp.cmdValid = true ∧ s.cmdReady = true) ∧
       ¬(s.rspValid = true ∧ s.inp.rspReady = true)) ∧
    nextEvent (objectThenEdge (.identifier 0) 2) ≠ .clock ∧
    nextEvent { State.reset with stim := [.drive .idle] } ≠ .clock := by decide
theorem test_witness_BuiltObjectsAreTheirTableRows :
    0x1FF ≤ 0x1FF ∧ 0xFF ≤ 0xFF ∧ 7 ≤ 7 ∧
    decode (.wire (.identifier 0x1FFFFFFF)) = .ok (.arbid 0x1FF 1 0xFF 0xFF 7) := by decide
theorem test_witness_UntakenResponsesAreNeverOverwritten :
    let s := presenting false true false true .illegalF
    s.rspValid = true ∧ s.resetNext = false ∧ s.takenNext = none ∧ (after s).isSome = true := by decide
theorem test_witness_ResetEmptiesTheResponseRegister :
    (presenting true true true true .illegalF).resetNext = true := by decide
theorem test_witness_ResponsePortNeedsAValidResponse :
    (State.reset.hold heldRsp).responsePort.toOption = some heldRsp ∧
    State.reset.responsePort.toOption = none := by decide
theorem test_witness_EveryStepKeepsTheResponseLegal :
    let s := presenting false true true true .illegalF
    s.legal = true ∧ (after s).isSome = true := by decide
/-- A run with one response taken and replaced by the next on the same edge. -/
theorem test_witness_ResponsesAreDeliveredInOrder :
    let l := runLog 2 (presenting false true true false (.encU32 7))
    l.sawReset = false ∧ l.taken = [{ Rsp.zero with raw := ⟨0, 0, 0, 7⟩ }] ∧
    l.accepted = [.encU32 7, .encU32 7] ∧ l.last.pending = [{ Rsp.zero with raw := ⟨0, 0, 0, 7⟩ }] := by decide
theorem test_witness_AnUntakenResponseBlocksForever :
    let s := presenting false true false true .illegalF
    s.stim = [] ∧ s.inp.rst = false ∧ s.rspValid = true ∧ s.inp.rspReady = false := by decide
theorem test_witness_ATakenResponseLeavesTheBlockReady :
    let s := presenting false false true true .illegalF
    s.takenNext ≠ none ∧ s.acceptedNext = none ∧ (after s).isSome = true := by decide
theorem test_witness_DecodeOfEncodeIsTheInstruction :
    (Instr.encArbid 0xFFFF 1 0xFFFF 0xFFFF 0xFFFF).wf = true ∧ (Instr.valueField 0xFFFFFFFF).wf = true := by decide
theorem test_witness_EncodeOfDecodedWireIsTheWire :
    decode (.wire (.identifier 0x1FFFFFFF)) = .ok (.arbid 0x1FF 1 0xFF 0xFF 7) ∧
    decode (.wire (.value ⟨1, 2, 3, 4⟩)) = .ok (.valueField 0x01020304) := by decide

/-- Two command ports that agree on a code and on its operands and differ elsewhere. -/
def portA (op : BitVec 4) (isFloat : BitVec 1) : CmdPort := { CmdPort.ofOp op with isFloat := isFloat }
def portB (op : BitVec 4) (isFloat : BitVec 1) : CmdPort :=
  { CmdPort.ofOp op with
    isFloat := isFloat
    reg := if op = 3 ∨ op = 4 then 0 else 1
    fval := if op = 6 ∨ op = 4 ∧ isFloat = 1 then 0 else 1
    uval := if op = 7 ∨ op = 4 ∧ isFloat = 0 then 0 else 1
    len := if op = 5 then 0 else 1
    id := if op = 2 then 0 else 1
    raw := if op = 8 ∨ op = 9 then .zero else ⟨1, 1, 1, 1⟩
    protno := if op = 1 then 0 else 1 }

theorem test_witness_UnlistedPortsAreIgnored :
    (∀ op ∈ ([0, 1, 2, 3, 4, 5, 6, 7, 8, 9, 0xA, 0xF] : List (BitVec 4)),
      (portA op 1).op = (portB op 1).op ∧ portA op 1 ≠ portB op 1 ∧
      decodeCommand (portA op 1) = decodeCommand (portB op 1)) ∧
    (portA 4 0).isFloat = 0 ∧ (portB 4 0).isFloat = 0 ∧ (portA 4 0).uval = (portB 4 0).uval ∧
    (portA 4 0).reg = (portB 4 0).reg := by decide
theorem test_witness_PlacedWordsRunNext :
    decodeTableWord 8 0xF = some .illegalF ∧ decodeTableWord 29 0x1FFFFFFF = some (.arbid 0x1FF 1 0xFF 0xFF 7) ∧
    decodeTableWord 32 0x20000000 = some (.valueField 0x20000000) ∧
    decodeTableWord 64 0x42000000FFFFFFFF = some (.readRspU32 0 0 0 0xFFFFFFFF) ∧
    after (State.reset.withFetchWord 8 0xF) = some (true, { Rsp.zero with status := 3 }) := by decide
theorem test_witness_FramesAreIdentifierAndPayload :
    ∃ t u w, exec (.encArbid 0x060 1 0x03 0xF0 5) State.reset = .next t ∧
      exec (.encRdreq 0x21) State.reset = .next u ∧
      exec (.encWrreq 0x21 (.float 0x3FD0000000000000)) State.reset = .next w := ⟨_, _, _, rfl, rfl, rfl⟩

end Sys2Proof.Tests
end

section
/-! What each arm of a rising edge gives, and what a step that is no edge keeps (10_state.md R12). -/

namespace Sys2Proof.Machine

/-- The block is ready when its register is empty or being emptied. -/
theorem State.cmdReady_iff (s : State) :
    s.cmdReady = true ↔ s.rspValid = false ∨ s.inp.rspReady = true := by
  simp [State.cmdReady]

theorem State.accept_iff_cmdReady (s : State) :
    s.accept = true ↔ s.inp.cmdValid = true ∧ s.cmdReady = true := by
  simp [State.accept]

theorem clockEdge_of_rst {s : State} (hr : s.inp.rst = true) : clockEdge s = .next s.empty :=
  if_pos hr

theorem clockEdge_of_accept {s : State} (hr : s.inp.rst = false) (ha : s.accept = true) :
    clockEdge s = exec (decodeCommand s.inp.cmd) s := by
  simp [clockEdge, hr, ha]

theorem clockEdge_of_take {s : State} (hr : s.inp.rst = false) (ha : ¬s.accept = true) (ht : s.take = true) :
    clockEdge s = .next s.empty := by
  simp [clockEdge, hr, ha, ht]

theorem clockEdge_of_not_take {s : State} (hr : s.inp.rst = false) (ha : ¬s.accept = true)
    (ht : ¬s.take = true) : clockEdge s = .next s := by
  simp [clockEdge, hr, ha, ht]

theorem step_of_clock {s : State} (h : nextEvent s = .clock) : step s = clockEdge (s.setStim s.stim.tail) := by
  simp only [step, h, runEvent]

/-- Presenting a wire object always answers a state, with some object on its port. -/
theorem presentWire_eq_putWire (o : WireObject) (s : State) : ∃ o', presentWire o s = .next (s.putWire o') := by
  unfold presentWire
  split
  next i hi =>
    obtain ⟨o', -, he⟩ := exec_of_wire (respond_decodeWire hi) s
    exact ⟨o', he⟩
  next => exact ⟨o, rfl⟩

/-- Driving the inputs or presenting a wire object leaves the response register alone. -/
theorem step_keeps_response_of_ne_clock {s : State} (h : nextEvent s ≠ .clock) :
    ∃ t, step s = .next t ∧ t.rspValid = s.rspValid ∧ t.rsp = s.rsp ∧ t.stim = s.stim.tail := by
  unfold step
  cases he : nextEvent s with
  | clock => exact absurd he h
  | drive i => exact ⟨_, rfl, rfl, rfl, rfl⟩
  | present o =>
    obtain ⟨o', ho⟩ := presentWire_eq_putWire o (s.setStim s.stim.tail)
    exact ⟨_, ho, State.putWire_keeps_response _ o'⟩

/-- Settles O35: each arm of R12 is one equation of `clockEdge`, at the state whose event has left the list. -/
theorem clockEdgeFollowsTheHandshake : Obligations.ClockEdgeFollowsTheHandshake := by
  refine ⟨fun s hclk => ?_, fun s => step_keeps_response_of_ne_clock⟩
  simp only [← State.accept_iff_cmdReady, ← State.take_iff, step_of_clock hclk]
  refine ⟨s.cmdReady_iff, fun hr => clockEdge_of_rst hr, fun hr ha => ?_,
    fun hr ha ht => clockEdge_of_take hr ha ht, fun hr ha ht => clockEdge_of_not_take hr ha ht⟩
  obtain ⟨r, hresp⟩ := respond_decodeCommand s.inp.cmd
  have hedge := clockEdge_of_accept (s := s.setStim s.stim.tail) hr ha
  exact ⟨r, hresp, hedge.trans (exec_of_respond hresp _)⟩

end Sys2Proof.Machine
end

section
/-! The two arbitration-id operations (40_arbid.md): the response register that each of them gives. -/

namespace Sys2Proof.Machine

/-- The response to ENC_ARBID, one arm for each field that may not fit and one for the identifier (R61, R102). -/
theorem encArbid_signals (p : Nat) (f : BitVec 1) (d s g : Nat) :
    (encArbid p f d s g).signals =
      if p > 0x1FF then { Rsp.zero with status := 1, info := 0 }
      else if d > 0xFF then { Rsp.zero with status := 1, info := 2 }
      else if s > 0xFF then { Rsp.zero with status := 1, info := 3 }
      else if g > 7 then { Rsp.zero with status := 1, info := 4 }
      else { Rsp.zero with id := packId p f.toNat d s g } := by
  unfold encArbid
  split_ifs <;> rfl

/-- A bit field of a number is its quotient by the field's place, cut to the field's width. -/
theorem extractLsb'_eq_ofNat_div {w : Nat} (x : BitVec w) (start len : Nat) :
    x.extractLsb' start len = BitVec.ofNat len (x.toNat / 2 ^ start) := by
  rw [BitVec.extractLsb', Nat.shiftRight_eq_div_pow]

/-- The response to DEC_ARBID: each field of the identifier as a truncated quotient (R42, R63). -/
theorem decArbid_signals (id : BitVec 29) :
    (decArbid id).signals = { Rsp.zero with
      protno := BitVec.ofNat 9 (id.toNat / 2 ^ 20)
      flag := BitVec.ofNat 1 (id.toNat / 2 ^ 19)
      dest := BitVec.ofNat 8 (id.toNat / 2 ^ 11)
      src := BitVec.ofNat 8 (id.toNat / 2 ^ 3)
      group := BitVec.ofNat 3 id.toNat } := by
  have hgroup : idGroup id = BitVec.ofNat 3 id.toNat := rfl
  simp only [decArbid, Response.signals, Result.signals, hgroup, idProtno, idFlag, idDest, idSrc,
    extractLsb'_eq_ofNat_div]
  rfl

/-- Settles O1: a command's meaning is its response, delivered, and `encArbid_signals` says which response. -/
theorem encArbidPacksOrNamesTheFirstMisfit : Obligations.EncArbidPacksOrNamesTheFirstMisfit := by
  intro p d s g f st
  rw [exec_of_respond (r := encArbid p f d s g) rfl, encArbid_signals]
  rfl

/-- Settles O3: a command's meaning is its response, delivered, and `decArbid_signals` says which response. -/
theorem decArbidSplitsTheIdentifier : Obligations.DecArbidSplitsTheIdentifier := by
  intro id st
  rw [exec_of_respond (r := decArbid id) rfl, decArbid_signals]
  rfl

end Sys2Proof.Machine
end

section
/-! The read request and the reply taken apart (41_payload.md): the response register that each of them gives. -/

namespace Sys2Proof.Machine

/-- The response to ENC_RDREQ: function code 0x10, two zero bytes, the register address and four zero bytes (R71). -/
theorem encRdreq_signals (reg : Byte) :
    (encRdreq reg).signals =
      { Rsp.zero with pl := ⟨0x10, 0x00, 0x00, reg, 0x00, 0x00, 0x00, 0x00⟩ } := rfl

/-- The response to DEC_RDRSP: the length alone decides between the error and the tag with the value bytes (R75). -/
theorem decRdrsp_signals (pl : Payload) (len : BitVec 4) :
    (decRdrsp pl len).signals =
      if len.toNat < 8 then { Rsp.zero with status := 2 }
      else { Rsp.zero with tag := pl.b0, raw := ⟨pl.b4, pl.b5, pl.b6, pl.b7⟩ } := by
  unfold decRdrsp
  split_ifs <;> rfl

/-- Settles O5: a command's meaning is its response, delivered, and `encRdreq_signals` says which response. -/
theorem encRdreqBuildsTheReadRequest : Obligations.EncRdreqBuildsTheReadRequest := by
  intro reg st
  rw [exec_of_respond (r := encRdreq reg) rfl, encRdreq_signals]
  rfl

/-- Settles O8: the two clauses are the two arms of `decRdrsp_signals`. -/
theorem decRdrspReturnsTagAndValueOrIsMalformed : Obligations.DecRdrspReturnsTagAndValueOrIsMalformed := by
  intro pl len st
  rw [exec_of_respond (r := decRdrsp pl len) rfl, decRdrsp_signals]
  constructor
  · intro hshort
    rw [if_pos hshort]
    rfl
  · intro hlong
    rw [if_neg (Nat.not_lt.mpr hlong)]
    rfl

end Sys2Proof.Machine
end

section
/-! The integer value field (42_value.md, ENC_U32 and DEC_U32): its bytes by shifts, and the response register that
each of the two operations gives. -/

namespace Sys2Proof.Machine

/-- The bytes of a number as truncated quotients, most significant first (R29). -/
theorem be32_eq_ofNat (u : BitVec 32) :
    be32 u = ⟨BitVec.ofNat 8 (u.toNat / 2 ^ 24), BitVec.ofNat 8 (u.toNat / 2 ^ 16),
      BitVec.ofNat 8 (u.toNat / 2 ^ 8), BitVec.ofNat 8 u.toNat⟩ := by
  simp only [be32, extractLsb'_eq_ofNat_div, Nat.pow_zero, Nat.div_one]

/-- The number of a value field as the OR of its shifted bytes: each byte appended shifts those before it (R29). -/
theorem unbe32_toNat_eq_or (v : ValueField) :
    (unbe32 v).toNat =
      (v.v0.toNat <<< 24) ||| (v.v1.toNat <<< 16) ||| (v.v2.toNat <<< 8) ||| v.v3.toNat := by
  simp only [unbe32, BitVec.toNat_append, Nat.shiftLeft_or_distrib, ← Nat.shiftLeft_add]

/-- The response to ENC_U32: the four bytes of the integer, most significant first (R92). -/
theorem encU32_signals (u : BitVec 32) :
    (encU32 u).signals = { Rsp.zero with raw :=
      ⟨BitVec.ofNat 8 (u.toNat / 2 ^ 24), BitVec.ofNat 8 (u.toNat / 2 ^ 16),
        BitVec.ofNat 8 (u.toNat / 2 ^ 8), BitVec.ofNat 8 u.toNat⟩ } := by
  rw [← be32_eq_ofNat]
  rfl

/-- The response to DEC_U32: the OR of the four bytes, each shifted to its place (R96). -/
theorem decU32_signals (v : ValueField) :
    (decU32 v).signals = { Rsp.zero with
      uval := BitVec.ofNat 32
        ((v.v0.toNat <<< 24) ||| (v.v1.toNat <<< 16) ||| (v.v2.toNat <<< 8) ||| v.v3.toNat) } := by
  rw [← unbe32_toNat_eq_or, BitVec.ofNat_toNat, BitVec.setWidth_eq]
  rfl

/-- Settles O12: a command's meaning is its response, delivered, and `decU32_signals` says which response. -/
theorem decU32IsBigEndian : Obligations.DecU32IsBigEndian := by
  intro v st
  rw [exec_of_respond (r := decU32 v) rfl, decU32_signals]
  rfl

/-- Settles O11: a command's meaning is its response, delivered, and `encU32_signals` says which response. -/
theorem encU32IsBigEndian : Obligations.EncU32IsBigEndian := by
  intro u st
  rw [exec_of_respond (r := encU32 u) rfl, encU32_signals]
  rfl

end Sys2Proof.Machine
end

section
/-! The errors of 60_exceptions.md: which command raises MALFORMED_FRAME, and the unassigned codes at the port. -/

namespace Sys2Proof.Machine

/-- Every instruction of the command format has a response (R15). -/
theorem respond_of_format_cmd {i : Instr} (h : i.format = .cmd) : ∃ r, respond i = some r := by
  cases i <;> cases h <;> exact ⟨_, rfl⟩

/-- Status 2 is the code of MALFORMED_FRAME and of no other response (R101). -/
theorem Response.signals_status_eq_two_iff (r : Response) :
    r.signals.status = 2 ↔ r = .error .malformedFrame := by
  cases r with
  | ok x => simp [Response.signals]
  | error e => cases e <;> simp [Response.signals, Err.status]

/-- The one error of `narrow` is RANGE_ERROR on VALUE (R86, 92 D13). -/
theorem narrow_error {d : F64} {e : Err} (h : narrow d = .error e) : e = .range .value := by
  unfold narrow at h
  split_ifs at h
  split at h <;> cases h
  rfl

/-- The value of a write fails only as `narrow` does: an integer never fails (R73). -/
theorem writePattern_error {v : WriteValue} {e : Err} (h : writePattern v = .error e) : e = .range .value := by
  cases v with
  | float d => exact narrow_error h
  | uint u => cases h

theorem encF32_error {d : F64} {e : Err} (h : encF32 d = .error e) : e = .range .value := by
  unfold encF32 at h
  split at h <;> cases h
  next he => exact narrow_error he

theorem encWrreq_error {reg : Byte} {v : WriteValue} {e : Err} (h : encWrreq reg v = .error e) :
    e = .range .value := by
  unfold encWrreq at h
  split at h <;> cases h
  next he => exact writePattern_error he

theorem encArbid_error {p d s g : Nat} {f : BitVec 1} {e : Err} (h : encArbid p f d s g = .error e) :
    ∃ field, e = .range field := by
  unfold encArbid at h
  split_ifs at h <;> cases h <;> exact ⟨_, rfl⟩

theorem decRdrsp_eq_malformedFrame_iff (pl : Payload) (len : BitVec 4) :
    decRdrsp pl len = .error .malformedFrame ↔ len.toNat < 8 := by
  simp [decRdrsp]

/-- MALFORMED_FRAME is the response to a short DEC_RDRSP and to no other command (R104). -/
theorem respond_eq_malformedFrame_iff (i : Instr) :
    respond i = some (.error .malformedFrame) ↔ ∃ pl len, i = .decRdrsp pl len ∧ len.toNat < 8 := by
  constructor
  · intro h
    cases i <;> simp only [respond, Option.some.injEq, reduceCtorEq] at h
    case decRdrsp pl len => exact ⟨pl, len, rfl, (decRdrsp_eq_malformedFrame_iff pl len).mp h⟩
    case encArbid =>
      obtain ⟨_, hfield⟩ := encArbid_error h
      cases hfield
    case encWrreq => cases encWrreq_error h
    case encF32 => cases encF32_error h
    all_goals cases h
  · rintro ⟨pl, len, rfl, hshort⟩
    exact congrArg some ((decRdrsp_eq_malformedFrame_iff pl len).mpr hshort)

/-- Settles O9: the status of the state reached is that of the command's response, and `respond_eq_malformedFrame_iff`
says which commands answer MALFORMED_FRAME. -/
theorem malformedFrameExactlyOnShortReplies : Obligations.MalformedFrameExactlyOnShortReplies := by
  intro i st t hcmd hexec
  obtain ⟨r, hr⟩ := respond_of_format_cmd hcmd
  rw [exec_of_respond hr] at hexec
  cases hexec
  rw [State.hold_rsp, Response.signals_status_eq_two_iff, ← respond_eq_malformedFrame_iff, hr, Option.some.injEq]

/-- The response to an unassigned code, whatever the operand ports carry (R51, R106). -/
theorem respond_decodeCommand_of_unassigned {c : CmdPort} (h : c.op.toNat = 0 ∨ 0xA ≤ c.op.toNat) :
    respond (decodeCommand c) = some illegalOp := by
  obtain h0 | hA := h
  · simp only [decodeCommand, h0, respond]
  · have hlt : c.op.toNat < 16 := c.op.isLt
    interval_cases hop : c.op.toNat <;> simp only [decodeCommand, hop, respond]

/-- Settles O23: the edge accepts the command on the port, and an unassigned code answers ILLEGAL_OP. -/
theorem unassignedCodesAreAcceptedAndAnswered : Obligations.UnassignedCodesAreAcceptedAndAnswered := by
  intro s hclk hrst hacc hop
  rw [step_of_clock hclk, clockEdge_of_accept (s := s.setStim s.stim.tail) hrst hacc,
    State.setStim_inp, exec_of_respond (respond_decodeCommand_of_unassigned hop)]
  rfl

end Sys2Proof.Machine
end

section
/-! What one step does to the response register, said once for every kind of step (10_state.md R12, R22), and the
invariants of the handshake that follow from it. -/

namespace Sys2Proof.Machine

@[simp] theorem State.setStim_accept (s : State) (l : List Stimulus) : (s.setStim l).accept = s.accept := rfl
@[simp] theorem State.setStim_take (s : State) (l : List Stimulus) : (s.setStim l).take = s.take := rfl

/-- What a step does to the response register, by whether it resets, what it accepts and what it takes (R12, R22). -/
inductive StepEffect (s t : State) : Prop where
  /-- A reset edge empties the register. -/
  | reset (hreset : s.resetNext = true) (hacc : s.acceptedNext = none) (htake : s.takenNext = none)
      (hvalid : t.rspValid = false)
  /-- An accepted command fills the register; a response that stood there is taken on the same edge. -/
  | accept (i : Instr) (r : Response) (hresp : respond i = some r) (hreset : s.resetNext = false)
      (hacc : s.acceptedNext = some i) (htake : s.takenNext.toList = s.pending)
      (hvalid : t.rspValid = true) (hrsp : t.rsp = r.signals)
  /-- A response is taken and no command accepted. -/
  | take (hheld : s.rspValid = true) (hreset : s.resetNext = false) (hacc : s.acceptedNext = none)
      (htake : s.takenNext = some s.rsp) (hvalid : t.rspValid = false)
  /-- Nothing happens at the handshake. -/
  | keep (hreset : s.resetNext = false) (hacc : s.acceptedNext = none) (htake : s.takenNext = none)
      (hvalid : t.rspValid = s.rspValid) (hrsp : t.rsp = s.rsp)

/-- A step that is no clock edge resets, accepts and takes nothing. -/
theorem handshake_of_ne_clock {s : State} (h : nextEvent s ≠ .clock) :
    s.resetNext = false ∧ s.acceptedNext = none ∧ s.takenNext = none := by
  simp [State.resetNext, State.acceptedNext, State.takenNext, State.atEdge, h]

/-- At a clock edge the reset level and the two handshakes decide (R12). -/
theorem handshake_of_clock {s : State} (h : nextEvent s = .clock) :
    s.resetNext = s.inp.rst ∧
    s.acceptedNext = (if !s.inp.rst && s.accept then some (decodeCommand s.inp.cmd) else none) ∧
    s.takenNext = (if !s.inp.rst && s.take then some s.rsp else none) := by
  simp [State.resetNext, State.acceptedNext, State.takenNext, State.atEdge, h]

/-- Every step does one of the four things. -/
theorem stepEffect_of_step {s t : State} (h : step s = .next t) : StepEffect s t := by
  by_cases hclk : nextEvent s = .clock
  · obtain ⟨hreset, hacc, htake⟩ := handshake_of_clock hclk
    rw [step_of_clock hclk] at h
    rcases clockEdge_cases h with
      ⟨hr, rfl⟩ | ⟨hr, ha, r, hresp, rfl⟩ | ⟨hr, ha, ht, rfl⟩ | ⟨hr, ha, ht, rfl⟩ <;>
      simp only [State.setStim_inp, State.setStim_accept, State.setStim_take] at *
    · exact .reset (by simp [hreset, hr]) (by simp [hacc, hr]) (by simp [htake, hr]) rfl
    · refine .accept _ r hresp (by simp [hreset, hr]) (by simp [hacc, hr, ha]) ?_ rfl rfl
      cases hv : s.rspValid with
      | true => simp [htake, hr, State.take_of_accept ha hv, State.pending, hv]
      | false => simp [htake, hr, State.take, State.pending, hv]
    · exact .take ((State.take_iff s).mp ht).1 (by simp [hreset, hr]) (by simp [hacc, ha])
        (by simp [htake, hr, ht]) rfl
    · exact .keep (by simp [hreset, hr]) (by simp [hacc, ha]) (by simp [htake, ht]) rfl rfl
  · obtain ⟨hreset, hacc, htake⟩ := handshake_of_ne_clock hclk
    obtain ⟨t', hstep, hvalid, hrsp, -⟩ := step_keeps_response_of_ne_clock hclk
    cases hstep.symm.trans h
    exact .keep hreset hacc htake hvalid hrsp

/-- A rising edge always answers a state: each of its four arms does. -/
theorem clockEdge_answers (s : State) : ∃ t, clockEdge s = .next t := by
  unfold clockEdge
  split_ifs with hrst hacc
  · exact ⟨_, rfl⟩
  · obtain ⟨r, hr⟩ := respond_decodeCommand s.inp.cmd
    exact ⟨_, exec_of_respond hr s⟩
  · exact ⟨_, rfl⟩
  · exact ⟨_, rfl⟩

/-- Settles O40: a clock edge answers a state, and so does every other event. -/
theorem everyStepAnswersANextState : Obligations.EveryStepAnswersANextState := by
  intro s
  by_cases hclk : nextEvent s = .clock
  · rw [step_of_clock hclk]
    exact clockEdge_answers _
  · obtain ⟨t, hstep, -⟩ := step_keeps_response_of_ne_clock hclk
    exact ⟨t, hstep⟩

/-- The response of an operation that ended with `ok` is legal: status and info are zero (R14). -/
theorem Result.signals_legal (x : Result) : x.signals.legal = true := by
  simp [Rsp.legal]

/-- An error that does not name the field FLAG is legal: it has no result, and its info code is one that is raised
(R14, R102). -/
theorem Err.signals_legal {e : Err} (h : e ≠ .range .flag) : e.signals.legal = true := by
  cases e with
  | range field =>
    cases field with
    | flag => exact absurd rfl h
    | protno | dest | src | group | value => rfl
  | malformedFrame => rfl
  | illegalOp => rfl

/-- ENC_ARBID never names the field FLAG: one bit always fits (R61, R102). -/
theorem encArbid_ne_flag (p : Nat) (f : BitVec 1) (d s g : Nat) : encArbid p f d s g ≠ .error (.range .flag) := by
  intro h
  unfold encArbid at h
  split_ifs at h <;> cases h

/-- No command names the field FLAG (R102). -/
theorem respond_ne_flag (i : Instr) : respond i ≠ some (.error (.range .flag)) := by
  intro h
  cases i <;> simp only [respond, Option.some.injEq, reduceCtorEq] at h
  case encArbid => exact encArbid_ne_flag _ _ _ _ _ h
  case encWrreq => cases encWrreq_error h
  case encF32 => cases encF32_error h
  case decRdrsp =>
    unfold decRdrsp at h
    split_ifs at h
    cases h
  all_goals cases h

/-- The response to every command is legal. -/
theorem respond_legal {i : Instr} {r : Response} (h : respond i = some r) : r.signals.legal = true := by
  cases r with
  | ok x => exact x.signals_legal
  | error e =>
    refine Err.signals_legal ?_
    rintro rfl
    exact respond_ne_flag i h

/-- Settles O42: only an accepted command writes the register, and the response to a command is legal. -/
theorem everyStepKeepsTheResponseLegal : Obligations.EveryStepKeepsTheResponseLegal := by
  intro s t hlegal hstep
  cases stepEffect_of_step hstep with
  | reset _ _ _ hvalid => simp [State.legal, hvalid]
  | accept i r hresp _ _ _ _ hrsp => simp [State.legal, hrsp, respond_legal hresp]
  | take _ _ _ _ hvalid => simp [State.legal, hvalid]
  | keep _ _ _ hvalid hrsp => simpa only [State.legal, hvalid, hrsp] using hlegal

/-- One step without a reset edge: what is taken and what is then held are what was held and then the response to the
accepted command. -/
theorem step_conserves_responses {s t : State} (hstep : step s = .next t) (hreset : s.resetNext = false) :
    (s.takenNext.toList ++ t.pending).map some =
      s.pending.map some ++ s.acceptedNext.toList.map responseSignals := by
  cases stepEffect_of_step hstep with
  | reset h => simp [hreset] at h
  | accept i r hresp _ hacc htake hvalid hrsp =>
    simp [hacc, htake, State.pending, hvalid, hrsp, responseSignals, hresp]
  | take hheld _ hacc htake hvalid => simp [hacc, htake, State.pending, hvalid, hheld]
  | keep _ hacc htake hvalid hrsp => simp [hacc, htake, State.pending, hvalid, hrsp]

/-- The log of a run begins with what its first step takes, accepts and resets. -/
theorem runLog_succ {s t : State} (h : step s = .next t) (n : Nat) :
    runLog (n + 1) s = ⟨s.takenNext.toList ++ (runLog n t).taken, s.acceptedNext.toList ++ (runLog n t).accepted,
      s.resetNext || (runLog n t).sawReset, (runLog n t).last⟩ := by
  simp only [runLog, h]

/-- Settles O43, by induction on the number of steps: each step conserves the responses. -/
theorem responsesAreDeliveredInOrder : Obligations.ResponsesAreDeliveredInOrder := by
  intro n
  induction n with
  | zero => intro s _; simp [runLog]
  | succ n ih =>
    intro s hreset
    obtain ⟨t, hstep⟩ := everyStepAnswersANextState s
    rw [runLog_succ hstep] at hreset ⊢
    obtain ⟨hfirst, hrest⟩ : s.resetNext = false ∧ (runLog n t).sawReset = false := by simpa using hreset
    calc ((s.takenNext.toList ++ (runLog n t).taken) ++ (runLog n t).last.pending).map some
        = s.takenNext.toList.map some ++ ((runLog n t).taken ++ (runLog n t).last.pending).map some := by simp
      _ = (s.takenNext.toList ++ t.pending).map some ++ (runLog n t).accepted.map responseSignals := by
          rw [ih t hrest]; simp
      _ = s.pending.map some ++ (s.acceptedNext.toList ++ (runLog n t).accepted).map responseSignals := by
          rw [step_conserves_responses hstep hfirst]; simp

/-- Settles O36: only a reset, an accepted command over a taken response, and a take change a held response. -/
theorem untakenResponsesAreNeverOverwritten : Obligations.UntakenResponsesAreNeverOverwritten := by
  intro s t hheld hreset huntaken hstep
  cases stepEffect_of_step hstep with
  | reset h => simp [hreset] at h
  | accept _ _ _ _ _ htake => simp [huntaken, State.pending, hheld] at htake
  | take _ _ _ htake => simp [huntaken] at htake
  | keep _ _ _ hvalid hrsp => exact ⟨hvalid.trans hheld, hrsp⟩

/-- An empty register makes the block ready and the response port a fault (R12, R13). -/
theorem ready_of_empty {s : State} (h : s.rspValid = false) :
    s.cmdReady = true ∧ s.responsePort = .error .responseNotValid := by
  simp [State.cmdReady, State.responsePort, h]

/-- Settles O37: a reset edge is the effect `reset`, and an empty register is ready. -/
theorem resetEmptiesTheResponseRegister : Obligations.ResetEmptiesTheResponseRegister := by
  intro s hreset
  obtain ⟨t, hstep⟩ := everyStepAnswersANextState s
  cases stepEffect_of_step hstep with
  | reset _ hacc htake hvalid => exact ⟨hacc, htake, t, hstep, hvalid, ready_of_empty hvalid⟩
  | accept _ _ _ h => simp [hreset] at h
  | take _ h => simp [hreset] at h
  | keep h => simp [hreset] at h

/-- Settles O45: a step that takes and does not accept is the effect `take`, and an empty register is ready. -/
theorem aTakenResponseLeavesTheBlockReady : Obligations.ATakenResponseLeavesTheBlockReady := by
  intro s t htaken hnone hstep
  cases stepEffect_of_step hstep with
  | reset _ _ h => exact absurd h htaken
  | accept _ _ _ _ h => simp [hnone] at h
  | take _ _ _ _ hvalid => exact ⟨hvalid, (ready_of_empty hvalid).1⟩
  | keep _ _ h => exact absurd h htaken

/-- A response held and not asked for stops the block: the next edge changes nothing (R125). -/
theorem step_of_blocked {s : State} (hstim : s.stim = []) (hrst : s.inp.rst = false) (hheld : s.rspValid = true)
    (hready : s.inp.rspReady = false) : step s = .next s := by
  have hclk : nextEvent s = .clock := by simp [nextEvent, hstim]
  have hsame : s.setStim s.stim.tail = s := by rw [hstim, List.tail_nil, ← hstim]; rfl
  rw [step_of_clock hclk, hsame]
  exact clockEdge_of_not_take hrst (by simp [State.accept_iff, hheld, hready]) (by simp [State.take_iff, hready])

/-- A machine whose step leaves a state as it is stays there for any number of steps. -/
theorem run_of_step_eq_self {M : Host.Core} {s : M.State} (h : M.step s = .next s) (n : Nat) :
    M.run n s = .next s := by
  induction n with
  | zero => rfl
  | succ n ih => simp only [Host.Core.run, h, ih]

/-- Settles O44: the blocked state steps to itself. -/
theorem anUntakenResponseBlocksForever : Obligations.AnUntakenResponseBlocksForever := by
  intro n s hstim hrst hheld hready
  exact run_of_step_eq_self (M := Sys2Proof.core) (step_of_blocked hstim hrst hheld hready) n

/-- Settles O38: the register is empty at reset. -/
theorem resetStateIsEmptyAndReady : Obligations.ResetStateIsEmptyAndReady :=
  ⟨rfl, ready_of_empty rfl⟩

/-- Settles O41: no response is held at reset. -/
theorem legalResponseAtReset : Obligations.LegalResponseAtReset := by
  simp [Obligations.LegalResponseAtReset, State.legal, State.reset]

/-- Settles O39, by the two values of `rsp_valid`. -/
theorem responsePortNeedsAValidResponse : Obligations.ResponsePortNeedsAValidResponse := by
  intro s r
  cases h : s.rspValid <;> simp [State.responsePort, h]

end Sys2Proof.Machine
end

section
/-! The decoder and the encoder are inverse on the wire objects (30_encoding.md) and on the command port (10_state.md
R11). -/

namespace Sys2Proof.Machine

/-- Four bytes from a number and back (R29). -/
@[simp] theorem unbe32_be32 (u : BitVec 32) : unbe32 (be32 u) = u := by
  obtain ⟨h0, h1, h2, h3⟩ := be32_bytes u
  apply BitVec.eq_of_toNat_eq
  rw [unbe32_toNat]
  omega

/-- A number from four bytes and back (R29). -/
@[simp] theorem be32_unbe32 (v : ValueField) : be32 (unbe32 v) = v := by
  obtain ⟨h0, h1, h2, h3⟩ := be32_bytes (unbe32 v)
  have hn := unbe32_toNat v
  have := v.v0.isLt
  have := v.v1.isLt
  have := v.v2.isLt
  have := v.v3.isLt
  have e0 : (be32 (unbe32 v)).v0 = v.v0 := BitVec.eq_of_toNat_eq (by omega)
  have e1 : (be32 (unbe32 v)).v1 = v.v1 := BitVec.eq_of_toNat_eq (by omega)
  have e2 : (be32 (unbe32 v)).v2 = v.v2 := BitVec.eq_of_toNat_eq (by omega)
  have e3 : (be32 (unbe32 v)).v3 = v.v3 := BitVec.eq_of_toNat_eq (by omega)
  calc be32 (unbe32 v)
      = ⟨(be32 (unbe32 v)).v0, (be32 (unbe32 v)).v1, (be32 (unbe32 v)).v2, (be32 (unbe32 v)).v3⟩ := rfl
    _ = v := by rw [e0, e1, e2, e3]

/-- The fields of an identifier are those it was packed from, where they fit (R40, R42). -/
theorem idFields_packId {p f d s g : Nat} (hp : p < 512) (hf : f < 2) (hd : d < 256) (hs : s < 256) (hg : g < 8) :
    (idProtno (packId p f d s g)).toNat = p ∧ (idFlag (packId p f d s g)).toNat = f ∧
      (idDest (packId p f d s g)).toNat = d ∧ (idSrc (packId p f d s g)).toNat = s ∧
      (idGroup (packId p f d s g)).toNat = g := by
  obtain ⟨hp', hf', hd', hs', hg'⟩ := idFields_toNat (packId p f d s g)
  rw [packId_toNat hp hf hd hs hg] at hp' hf' hd' hs' hg'
  omega

/-- An identifier is packed from its own fields: no bit lies between them (R40, R42). -/
theorem packId_idFields (id : BitVec 29) :
    packId (idProtno id).toNat (idFlag id).toNat (idDest id).toNat (idSrc id).toNat (idGroup id).toNat = id := by
  obtain ⟨hp, hf, hd, hs, hg⟩ := idFields_toNat id
  apply BitVec.eq_of_toNat_eq
  rw [packId_toNat (idProtno id).isLt (idFlag id).isLt (idDest id).isLt (idSrc id).isLt (idGroup id).isLt]
  omega

/-- An identifier packed from fields decodes to the ARBID of the fields. -/
theorem decodeIdentifier_packId (p : BitVec 9) (f : BitVec 1) (d s : BitVec 8) (g : BitVec 3) :
    decodeIdentifier (packId p.toNat f.toNat d.toNat s.toNat g.toNat) = .arbid p f d s g := by
  obtain ⟨hp, hf, hd, hs, hg⟩ := idFields_packId p.isLt f.isLt d.isLt s.isLt g.isLt
  simp only [decodeIdentifier, BitVec.eq_of_toNat_eq hp, BitVec.eq_of_toNat_eq hf, BitVec.eq_of_toNat_eq hd,
    BitVec.eq_of_toNat_eq hs, BitVec.eq_of_toNat_eq hg]

/-- A payload is its first four bytes and its value field (R25, R26). -/
@[simp] theorem withValue_payloadValue (pl : Payload) :
    withValue pl.b0 pl.b1 pl.b2 pl.b3 (payloadValue pl) = pl := rfl

theorem decodePayload_readRequest (reg : Byte) : decodePayload (readRequest reg) = .ok (.readReq reg) := rfl

theorem decodePayload_writeRequest (reg : Byte) (v : ValueField) :
    decodePayload (writeRequest reg v) = .ok (.writeReq reg (unbe32 v)) := rfl

theorem decodePayload_readResponse_float (e1 e2 e3 : Byte) (v : ValueField) :
    decodePayload (readResponse tagFloat e1 e2 e3 v) = .ok (.readRspF32 e1 e2 e3 (unbe32 v)) := rfl

theorem decodePayload_readResponse_uint (e1 e2 e3 : Byte) (v : ValueField) :
    decodePayload (readResponse tagUint e1 e2 e3 v) = .ok (.readRspU32 e1 e2 e3 (unbe32 v)) := rfl

/-- A payload that decodes has the layout of the row it decodes to (R43, R44, R45). -/
theorem decodePayload_cases {pl : Payload} {i : Instr} (h : decodePayload pl = .ok i) :
    (i = .readReq pl.b3 ∧ pl = readRequest pl.b3) ∨
    (i = .writeReq pl.b3 (unbe32 (payloadValue pl)) ∧ pl = writeRequest pl.b3 (payloadValue pl)) ∨
    (i = .readRspF32 pl.b1 pl.b2 pl.b3 (unbe32 (payloadValue pl)) ∧
      pl = readResponse tagFloat pl.b1 pl.b2 pl.b3 (payloadValue pl)) ∨
    (i = .readRspU32 pl.b1 pl.b2 pl.b3 (unbe32 (payloadValue pl)) ∧
      pl = readResponse tagUint pl.b1 pl.b2 pl.b3 (payloadValue pl)) := by
  unfold decodePayload at h
  split_ifs at h with hread hwrite hfloat huint <;> cases h
  · obtain ⟨h0, h1, h2, hv⟩ := hread
    refine .inl ⟨rfl, ?_⟩
    rw [readRequest, ← h0, ← hv]
    nth_rw 1 [← withValue_payloadValue pl]
    rw [h1, h2]
  · obtain ⟨h0, h1, h2⟩ := hwrite
    refine .inr (.inl ⟨rfl, ?_⟩)
    rw [writeRequest, ← h0]
    nth_rw 1 [← withValue_payloadValue pl]
    rw [h1, h2]
  · exact .inr (.inr (.inl ⟨rfl, by rw [readResponse, ← hfloat, withValue_payloadValue]⟩))
  · exact .inr (.inr (.inr ⟨rfl, by rw [readResponse, ← huint, withValue_payloadValue]⟩))

/-- A port carries every natural that is presentable on it (R11). -/
theorem toNat_ofNat_of_presentable {n : Nat} (h : presentable n = true) :
    (BitVec.ofNat Config.wIn n).toNat = n := by
  rw [BitVec.toNat_ofNat]
  exact Nat.mod_eq_of_lt (of_decide_eq_true h)

/-- Settles O46, by the rows of the table: a command's operands stand on their ports, and each wire layout decodes to
its own row. -/
theorem decodeOfEncodeIsTheInstruction : Obligations.DecodeOfEncodeIsTheInstruction := by
  intro i hwf
  cases i with
  | encArbid p f d s g =>
    simp only [Instr.wf, Bool.and_eq_true] at hwf
    obtain ⟨⟨⟨hp, hd⟩, hs⟩, hg⟩ := hwf
    have h : decode (encode (.encArbid p f d s g)) =
        .ok (.encArbid (BitVec.ofNat Config.wIn p).toNat f (BitVec.ofNat Config.wIn d).toNat
          (BitVec.ofNat Config.wIn s).toNat (BitVec.ofNat Config.wIn g).toNat) := rfl
    rw [h, toNat_ofNat_of_presentable hp, toNat_ofNat_of_presentable hd, toNat_ofNat_of_presentable hs,
      toNat_ofNat_of_presentable hg]
  | encWrreq reg value => cases value <;> rfl
  | arbid p f d s g => exact congrArg _ (decodeIdentifier_packId p f d s g)
  | readReq reg => exact decodePayload_readRequest reg
  | writeReq reg u =>
    rw [← unbe32_be32 u, encode, be32_unbe32]
    exact decodePayload_writeRequest reg (be32 u)
  | readRspF32 e1 e2 e3 u =>
    rw [← unbe32_be32 u, encode, be32_unbe32]
    exact decodePayload_readResponse_float e1 e2 e3 (be32 u)
  | readRspU32 e1 e2 e3 u =>
    rw [← unbe32_be32 u, encode, be32_unbe32]
    exact decodePayload_readResponse_uint e1 e2 e3 (be32 u)
  | valueField u => simp [encode, decode, decodeWire]
  | _ => rfl

/-- Settles O47, by the kind of object and, for a payload, by the layout it has. -/
theorem encodeOfDecodedWireIsTheWire : Obligations.EncodeOfDecodedWireIsTheWire := by
  intro o i h
  cases o with
  | identifier id =>
    cases h
    simp only [decodeIdentifier, encode, packId_idFields]
  | payload pl =>
    rcases decodePayload_cases h with ⟨rfl, hpl⟩ | ⟨rfl, hpl⟩ | ⟨rfl, hpl⟩ | ⟨rfl, hpl⟩ <;>
      simp only [encode, be32_unbe32, ← hpl]
  | value v =>
    cases h
    simp only [encode, be32_unbe32]

/-- Settles O48: once the listed ports are the same, the two commands are the same by `decodeCommand`. -/
theorem unlistedPortsAreIgnored : Obligations.UnlistedPortsAreIgnored := by
  intro a b hop
  replace hop := hop.symm
  refine ⟨?_, ?_, ?_, ?_, ?_, ?_, ?_, ?_, ?_, ?_, ?_⟩
  case refine_11 =>
    intro hcode
    obtain h0 | hA := hcode
    · simp [decodeCommand, hop, h0]
    · have hlt : a.op.toNat < 16 := a.op.isLt
      interval_cases h : a.op.toNat <;> simp only [decodeCommand, hop, h]
  all_goals
    intros
    simp [decodeCommand, *]

/-- A value field is zero when its four bytes are. -/
theorem payloadValue_eq_zero_iff (pl : Payload) :
    payloadValue pl = .zero ↔ pl.b4 = 0 ∧ pl.b5 = 0 ∧ pl.b6 = 0 ∧ pl.b7 = 0 := by
  simp [payloadValue, ValueField.zero]

/-- Settles O49: the decoder rejects where each of its four tests fails. -/
theorem payloadsWithoutALayoutHaveNoRow : Obligations.PayloadsWithoutALayoutHaveNoRow := by
  intro pl
  rw [← payloadValue_eq_zero_iff]
  unfold decodePayload
  split_ifs with hread hwrite hfloat huint
  · exact iff_of_false nofun fun ⟨h, _⟩ => h hread
  · exact iff_of_false nofun fun ⟨_, h, _⟩ => h hwrite
  · exact iff_of_false nofun fun ⟨_, _, h, _⟩ => h hfloat
  · exact iff_of_false nofun fun ⟨_, _, _, h⟩ => h huint
  · exact iff_of_true rfl ⟨hread, hwrite, hfloat, huint⟩

/-- Settles O50, by evaluation. -/
theorem wordsOfTheSpecDecode : Obligations.WordsOfTheSpecDecode := by
  unfold Obligations.WordsOfTheSpecDecode
  decide

end Sys2Proof.Machine
end

section
/-! Frames: what a command and a wire object leave unchanged (10_state.md sections 1 and 2), and the two steps that run
them. -/

namespace Sys2Proof.Machine

/-- An instruction of a wire format is no command. -/
theorem respond_of_format_ne_cmd {i : Instr} (h : i.format ≠ .cmd) : respond i = none := by
  cases i <;> simp only [Instr.format, ne_eq, not_true_eq_false, reduceCtorEq] at h <;> rfl

/-- The encoder presents every instruction in its row's format. -/
theorem encode_format (i : Instr) : (encode i).format = i.format := by
  cases i with
  | encWrreq reg value => exact Laws.TableFormat.encWrreq reg value
  | _ => rfl

/-- Settles O22: each unassigned code has the response ILLEGAL_OP. -/
theorem unassignedCodesAnswerIllegalOp : Obligations.UnassignedCodesAnswerIllegalOp := by
  intro i st hi
  have hresp : respond i = some illegalOp := by
    revert i
    simp [respond]
  exact exec_of_respond hresp st

/-- Settles O25: a command's meaning is its response, delivered, and the response is legal. -/
theorem commandsWriteOnlyTheResponse : Obligations.CommandsWriteOnlyTheResponse := by
  intro i st hcmd
  obtain ⟨r, hr⟩ := respond_of_format_cmd hcmd
  exact ⟨r.signals, respond_legal hr, exec_of_respond hr st⟩

/-- Settles O26: the response is a function of the instruction. -/
theorem responsesDependOnTheCommandAlone : Obligations.ResponsesDependOnTheCommandAlone := by
  intro i a b a' b' hcmd ha hb
  obtain ⟨r, hr⟩ := respond_of_format_cmd hcmd
  cases (exec_of_respond hr a).symm.trans ha
  cases (exec_of_respond hr b).symm.trans hb
  exact ⟨rfl, rfl⟩

/-- Which events are to come does not matter to the port that an object is put on. -/
theorem State.setStim_putWire (s : State) (l : List Stimulus) (o : WireObject) :
    (s.putWire o).setStim l = (s.setStim l).putWire o := by
  cases o <;> rfl

/-- An object on its port leaves the reset level and the handshake as they were. -/
theorem State.putWire_keeps_handshake (s : State) (o : WireObject) :
    (s.putWire o).inp.rst = s.inp.rst ∧ (s.putWire o).accept = s.accept := by
  cases o <;> exact ⟨rfl, rfl⟩

/-- The same object put on its port again changes nothing. -/
theorem State.putWire_putWire (s : State) (o : WireObject) : (s.putWire o).putWire o = s.putWire o := by
  cases o <;> rfl

/-- The meaning of a wire row is the object its encoding presents, put on its port. -/
theorem exec_of_encode_wire {i : Instr} {o : WireObject} (h : respond i = none) (ho : encode i = .wire o)
    (s : State) : exec i s = .next (s.putWire o) := by
  obtain ⟨o', ho', hexec⟩ := exec_of_wire h s
  cases ho.symm.trans ho'
  exact hexec

/-- Settles O27: the same response delivered again, or the same object put on its port again, is the same state. -/
theorem commandsAreIdempotent : Obligations.CommandsAreIdempotent := by
  intro i s t h
  cases hr : respond i with
  | some r =>
    cases (exec_of_respond hr s).symm.trans h
    exact exec_of_respond hr _
  | none =>
    obtain ⟨o, ho, hexec⟩ := exec_of_wire hr s
    cases hexec.symm.trans h
    rw [exec_of_encode_wire hr ho, State.putWire_putWire]

/-- Settles O28, by the kind of object that the row presents. -/
theorem wireObjectsChangeOnlyTheirPort : Obligations.WireObjectsChangeOnlyTheirPort := by
  intro i s hfmt
  obtain ⟨o, ho, hexec⟩ := exec_of_wire (respond_of_format_ne_cmd hfmt) s
  rw [hexec, ← encode_format i, ho]
  cases o with
  | identifier id => exact ⟨id, _, _, _, rfl, fun h => absurd rfl h, fun _ => ⟨rfl, rfl⟩, fun _ => rfl⟩
  | payload pl => exact ⟨_, pl, 8, _, rfl, fun _ => rfl, fun h => absurd rfl h, fun _ => rfl⟩
  | value v => exact ⟨_, _, _, v, rfl, fun _ => rfl, fun _ => ⟨rfl, rfl⟩, fun h => absurd rfl h⟩

/-- Settles O29: the fields fit their places, so the identifier packed from them is their sum. -/
theorem arbidStandsOnItsPort : Obligations.ArbidStandsOnItsPort := by
  intro p f d s g st
  exact ⟨packId p.toNat f.toNat d.toNat s.toNat g.toNat, packId_toNat p.isLt f.isLt d.isLt s.isLt g.isLt, rfl⟩

/-- A payload's bytes, its value field built from a number, most significant byte first (R29, R44, R45). -/
theorem withValue_be32 (b0 b1 b2 b3 : Byte) (u : BitVec 32) :
    withValue b0 b1 b2 b3 (be32 u) =
      ⟨b0, b1, b2, b3, BitVec.ofNat 8 (u.toNat / 2 ^ 24), BitVec.ofNat 8 (u.toNat / 2 ^ 16),
        BitVec.ofNat 8 (u.toNat / 2 ^ 8), BitVec.ofNat 8 u.toNat⟩ := by
  rw [be32_eq_ofNat, withValue]

/-- Settles O30: each row's payload is its first four bytes and the bytes of its value. -/
theorem payloadsStandOnTheirPort : Obligations.PayloadsStandOnTheirPort := by
  intro reg e1 e2 e3 u st put
  have hput (b0 b1 b2 b3 : Byte) : .next (put b0 b1 b2 b3 u.toNat) =
      (.next (st.putPayload (withValue b0 b1 b2 b3 (be32 u))) : Host.Outcome State Fault Refusal) := by
    rw [withValue_be32]
    rfl
  exact ⟨rfl, (hput _ _ _ _).symm, (hput _ _ _ _).symm, (hput _ _ _ _).symm⟩

/-- Settles O31: the field's bytes are those of the number. -/
theorem valueFieldStandsOnItsPort : Obligations.ValueFieldStandsOnItsPort := by
  intro u st
  rw [← be32_eq_ofNat]
  rfl

/-- What the command port carries is well formed: each operand comes from a port of its width (R11). -/
theorem decodeCommand_wf (c : CmdPort) : (decodeCommand c).wf = true := by
  unfold decodeCommand
  split
  case h_2 => simp [Instr.wf, presentable, BitVec.isLt]
  all_goals rfl

/-- Every code of `cmd_op` is of the command format (R50, R51). -/
theorem decodeCommand_format (c : CmdPort) : (decodeCommand c).format = .cmd := by
  unfold decodeCommand
  split <;> rfl

/-- At an edge that accepts, a step runs the command on the port (R12). -/
theorem step_of_accept {s : State} (hclk : nextEvent s = .clock) (hrst : s.inp.rst = false)
    (hacc : s.accept = true) : step s = exec (decodeCommand s.inp.cmd) (s.setStim s.stim.tail) := by
  rw [step_of_clock hclk]
  exact clockEdge_of_accept (s := s.setStim s.stim.tail) hrst hacc

/-- With an object next, a step puts it on its port. -/
theorem step_of_present {s : State} {o : WireObject} {rest : List Stimulus} (h : s.stim = .present o :: rest) :
    step s = presentWire o (s.setStim rest) := by
  simp [step, nextEvent, h, runEvent]

/-- An object that decodes is run as the instruction it decodes to. -/
theorem presentWire_of_decode {o : WireObject} {i : Instr} (h : decode (.wire o) = .ok i) (s : State) :
    presentWire o s = exec i s := by
  unfold presentWire
  rw [show decodeWire o = .ok i from h]

/-- Presenting an object puts that object on its port, whether it decodes or not. -/
theorem presentWire_eq (o : WireObject) (s : State) : presentWire o s = .next (s.putWire o) := by
  cases h : decodeWire o with
  | ok i =>
    rw [presentWire_of_decode h]
    exact exec_of_encode_wire (respond_decodeWire h) (encodeOfDecodedWireIsTheWire o i h) s
  | error e => simp only [presentWire, h]

/-- Settles O33: the edge accepts, and every command on the port is well formed. -/
theorem stepRunsTheAcceptedCommand : Obligations.StepRunsTheAcceptedCommand := by
  intro s i hdec hclk hrst hacc
  cases hdec
  exact ⟨decodeCommand_wf _, step_of_accept hclk hrst hacc⟩

/-- Settles O34: only a payload can fail to decode, and it stands on its port all the same. -/
theorem stepRunsTheWireObject : Obligations.StepRunsTheWireObject := by
  intro s o rest hstim
  refine ⟨fun i hdec => ?_, fun e hdec => ?_⟩
  · rw [step_of_present hstim, presentWire_of_decode hdec]
    rfl
  · cases o with
    | identifier id => cases hdec
    | value v => cases hdec
    | payload pl => exact ⟨pl, rfl, by rw [step_of_present hstim, presentWire_eq]; rfl⟩

/-- An object put on its port and then an edge that accepts: two steps, which leave the response to the command that the
port then carries. -/
theorem steps_of_present_clock {s : State} {o : WireObject} {rest : List Stimulus} {r : Response}
    (hstim : s.stim = .present o :: .clock :: rest) (hrst : s.inp.rst = false) (hacc : s.accept = true)
    (hresp : respond (decodeCommand (s.putWire o).inp.cmd) = some r) :
    ∃ u t, step s = .next u ∧ step u = .next t ∧ t.stim = rest ∧ t.rspValid = true ∧ t.rsp = r.signals := by
  obtain ⟨hrst', hacc'⟩ := s.putWire_keeps_handshake o
  refine ⟨(s.putWire o).setStim (.clock :: rest), ((s.putWire o).setStim rest).hold r.signals, ?_, ?_,
    rfl, rfl, rfl⟩
  · rw [step_of_present hstim, presentWire_eq, State.setStim_putWire]
  · exact (step_of_accept (s := (s.putWire o).setStim (.clock :: rest)) rfl (hrst'.trans hrst)
      (hacc'.trans hacc)).trans (exec_of_respond hresp _)

/-- Settles O32: each object is what the operation on the port then reads. -/
theorem presentedObjectsAreTakenApart : Obligations.PresentedObjectsAreTakenApart := by
  intro s rest hrst hacc
  refine ⟨fun id hstim hop => ?_, fun pl hstim hop => ?_, fun v hstim hop => ?_⟩
  · have hresp : respond (decodeCommand (s.putId id).inp.cmd) = some (decArbid id) := by
      simp [decodeCommand, State.putId, hop, respond]
    obtain ⟨u, t, hu, ht, hrest, hvalid, hrsp⟩ := steps_of_present_clock hstim hrst hacc hresp
    refine ⟨u, t, hu, ht, hrest, hvalid, ?_⟩
    rw [hrsp]
    exact idFields_toNat id
  · have hresp : respond (decodeCommand (s.putPayload pl).inp.cmd) = some (decRdrsp pl 8) := by
      simp [decodeCommand, State.putPayload, hop, respond]
    obtain ⟨u, t, hu, ht, hrest, hvalid, hrsp⟩ := steps_of_present_clock hstim hrst hacc hresp
    exact ⟨u, t, hu, ht, hrest, hvalid, hrsp⟩
  · have hresp : respond (decodeCommand (s.putValue v).inp.cmd) = some (decU32 v) := by
      simp [decodeCommand, State.putValue, hop, respond]
    obtain ⟨u, t, hu, ht, hrest, hvalid, hrsp⟩ := steps_of_present_clock hstim hrst hacc hresp
    refine ⟨u, t, hu, ht, hrest, hvalid, ?_⟩
    rw [hrsp]
    exact unbe32_toNat v

/-- A table word that decodes is a word of some row, and what it presents decodes to the instruction. -/
theorem decodeTableWord_eq_some {nbits w : Nat} {i : Instr} (h : decodeTableWord nbits w = some i) :
    ∃ p, tableWord nbits w = .ok p ∧ decode p = .ok i := by
  unfold decodeTableWord at h
  split at h
  next p hp =>
    refine ⟨p, hp, ?_⟩
    cases hd : decode p with
    | ok j =>
      rw [hd] at h
      cases h
      rfl
    | error e =>
      rw [hd] at h
      cases h
  next => cases h

/-- Settles O51: a placed command is accepted at the edge that comes next, and a placed object comes next. -/
theorem placedWordsRunNext : Obligations.PlacedWordsRunNext := by
  intro s nbits w i h
  obtain ⟨p, hp, hdec⟩ := decodeTableWord_eq_some h
  have hplace : s.withFetchWord nbits w = place s p := by simp only [State.withFetchWord, placeWord, hp]
  rw [hplace]
  cases p with
  | command c =>
    cases hdec
    refine ⟨⟨false, true, true, c⟩, ?_, fun hne => absurd (decodeCommand_format c) hne⟩
    exact step_of_accept rfl rfl (by simp [place, State.accept, State.cmdReady])
  | wire o =>
    refine ⟨s.inp, ?_, fun _ => rfl⟩
    rw [step_of_present (o := o) (rest := s.stim) rfl, presentWire_of_decode hdec]
    rfl

end Sys2Proof.Machine
end

section
/-! The encoders against the decoders (40_arbid.md, 41_payload.md, 42_value.md section 3) and the pseudo-operations of
30_encoding.md section 5. -/

namespace Sys2Proof.Machine

/-- The response of operands that fit: the identifier (R61). -/
theorem encArbid_of_fits {p d s g : Nat} (f : BitVec 1) (hp : p ≤ 0x1FF) (hd : d ≤ 0xFF) (hs : s ≤ 0xFF)
    (hg : g ≤ 7) : encArbid p f d s g = .ok (.id (packId p f.toNat d s g)) := by
  simp only [encArbid, if_neg (Nat.not_lt.mpr hp), if_neg (Nat.not_lt.mpr hd), if_neg (Nat.not_lt.mpr hs),
    if_neg (Nat.not_lt.mpr hg), gt_iff_lt]

/-- ENC_ARBID of operands that fit leaves their identifier. -/
theorem exec_encArbid_of_fits {p d s g : Nat} (f : BitVec 1) (hp : p ≤ 0x1FF) (hd : d ≤ 0xFF) (hs : s ≤ 0xFF)
    (hg : g ≤ 7) (st : State) :
    exec (.encArbid p f d s g) st = .next (st.hold { Rsp.zero with id := packId p f.toNat d s g }) := by
  rw [exec_of_respond (r := encArbid p f d s g) rfl, encArbid_of_fits f hp hd hs hg]
  rfl

/-- Settles O2: the fields of operands that fit do not overlap. -/
theorem encArbidIdentifierIsTheSumOfItsFields : Obligations.EncArbidIdentifierIsTheSumOfItsFields := by
  intro p d s g f st hp hd hs hg
  exact ⟨_, exec_encArbid_of_fits f hp hd hs hg st,
    packId_toNat (by omega) f.isLt (by omega) (by omega) (by omega), rfl⟩

/-- Operands that fit and pack to the same identifier are the same. -/
theorem packId_injective {p d s g p' d' s' g' : Nat} {f f' : BitVec 1} (hp : p ≤ 0x1FF) (hd : d ≤ 0xFF)
    (hs : s ≤ 0xFF) (hg : g ≤ 7) (hp' : p' ≤ 0x1FF) (hd' : d' ≤ 0xFF) (hs' : s' ≤ 0xFF) (hg' : g' ≤ 7)
    (h : packId p f.toNat d s g = packId p' f'.toNat d' s' g') :
    p = p' ∧ f = f' ∧ d = d' ∧ s = s' ∧ g = g' := by
  have hsum : (packId p f.toNat d s g).toNat = (packId p' f'.toNat d' s' g').toNat := by rw [h]
  have hf := f.isLt
  have hf' := f'.isLt
  rw [packId_toNat (by omega) hf (by omega) (by omega) (by omega),
    packId_toNat (by omega) hf' (by omega) (by omega) (by omega)] at hsum
  refine ⟨?_, BitVec.eq_of_toNat_eq ?_, ?_, ?_, ?_⟩ <;> omega

/-- Settles O4: packing and splitting are inverse, and packing is injective on operands that fit. -/
theorem arbidEncodeAndDecodeAreInverse : Obligations.ArbidEncodeAndDecodeAreInverse := by
  refine ⟨fun p d s g f st hp hd hs hg => ?_, fun id st => ?_, ?_⟩
  · obtain ⟨hpf, hff, hdf, hsf, hgf⟩ := idFields_packId (p := p) (f := f.toNat) (d := d) (s := s) (g := g)
      (by omega) f.isLt (by omega) (by omega) (by omega)
    exact ⟨_, _, exec_encArbid_of_fits f hp hd hs hg st,
      exec_of_respond (r := decArbid (packId p f.toNat d s g)) rfl _, hpf, BitVec.eq_of_toNat_eq hff, hdf, hsf, hgf⟩
  · refine ⟨_, _, exec_of_respond (r := decArbid id) rfl st,
      exec_encArbid_of_fits (idFlag id) (p := (idProtno id).toNat) (d := (idDest id).toNat) (s := (idSrc id).toNat)
        (g := (idGroup id).toNat) ?_ ?_ ?_ ?_ _, rfl, packId_idFields id⟩
    · exact Nat.le_of_lt_succ (idProtno id).isLt
    · exact Nat.le_of_lt_succ (idDest id).isLt
    · exact Nat.le_of_lt_succ (idSrc id).isLt
    · exact Nat.le_of_lt_succ (idGroup id).isLt
  · intro p d s g p' d' s' g' f f' st t t' hp hd hs hg hp' hd' hs' hg' h h' hid
    rw [exec_encArbid_of_fits f hp hd hs hg] at h
    rw [exec_encArbid_of_fits f' hp' hd' hs' hg'] at h'
    cases h
    cases h'
    exact packId_injective hp hd hs hg hp' hd' hs' hg' hid

/-- Where the float encodes, ENC_F32 gives its four bytes (R90). -/
theorem encF32_of_ok {d : F64} {u : BitVec 32} (h : narrow d = .ok u) : encF32 d = .ok (.floatField (be32 u)) := by
  simp only [encF32, h]

theorem encF32_of_error {d : F64} {e : Err} (h : narrow d = .error e) : encF32 d = .error e := by
  simp only [encF32, h]

/-- Where the value encodes, ENC_WRREQ gives the payload around its four bytes (R73). -/
theorem encWrreq_of_ok {v : WriteValue} {u : BitVec 32} (reg : Byte) (h : writePattern v = .ok u) :
    encWrreq reg v = .ok (.writePayload (writeRequest reg (be32 u))) := by
  simp only [encWrreq, h]

theorem encWrreq_of_error {v : WriteValue} {e : Err} (reg : Byte) (h : writePattern v = .error e) :
    encWrreq reg v = .error e := by
  simp only [encWrreq, h]

/-- Settles O6: the payload of an integer is its request around the bytes of the integer. -/
theorem encWrreqIntegerBuildsTheWriteRequest : Obligations.EncWrreqIntegerBuildsTheWriteRequest := by
  intro reg u st
  rw [exec_of_respond (r := encWrreq reg (.uint u)) rfl, encWrreq_of_ok reg rfl, writeRequest, ← withValue_be32]
  rfl

/-- Settles O7, by whether the float encodes. -/
theorem encWrreqCarriesTheEncodedValue : Obligations.EncWrreqCarriesTheEncodedValue := by
  refine ⟨fun reg d st => ?_, fun reg v st => ⟨_, _, exec_of_respond (r := encU32 v) rfl st,
    exec_of_respond (r := encWrreq reg (.uint v)) rfl st, rfl, rfl⟩⟩
  refine ⟨_, _, exec_of_respond (r := encF32 d) rfl st, exec_of_respond (r := encWrreq reg (.float d)) rfl st, ?_⟩
  cases h : narrow d with
  | ok u =>
    rw [encF32_of_ok h, encWrreq_of_ok (v := .float d) reg h]
    exact ⟨rfl, rfl, rfl⟩
  | error e =>
    rw [encF32_of_error h, encWrreq_of_error (v := .float d) reg h]
    exact ⟨rfl, rfl, (if_neg e.status_ne_ok).symm⟩

/-- A float whose ENC_F32 has status OK narrows. -/
theorem narrow_ok_of_status {d : F64} (h : (encF32 d).signals.status = 0) : ∃ u, narrow d = .ok u := by
  cases hn : narrow d with
  | ok u => exact ⟨u, rfl⟩
  | error e =>
    rw [encF32_of_error hn] at h
    exact absurd h e.status_ne_ok

/-- Settles O10: each request is four bytes and a value field, and is taken apart as such. -/
theorem requestsParseAsReplies : Obligations.RequestsParseAsReplies := by
  refine ⟨fun reg st => ?_, fun reg v st => ?_, fun reg d st w hexec hstatus => ?_⟩
  · exact ⟨_, _, exec_of_respond (r := encRdreq reg) rfl st,
      exec_of_respond (r := decRdrsp (readRequest reg) 8) rfl _, rfl⟩
  · exact ⟨_, _, _, exec_of_respond (r := encWrreq reg (.uint v)) rfl st,
      exec_of_respond (r := decRdrsp (writeRequest reg (be32 v)) 8) rfl _,
      exec_of_respond (r := encU32 v) rfl st, rfl⟩
  rw [exec_of_respond (r := encF32 d) rfl] at hexec
  cases hexec
  obtain ⟨u, hu⟩ := narrow_ok_of_status hstatus
  have hw := exec_of_respond (i := .encWrreq reg (.float d))
    (congrArg some (encWrreq_of_ok (v := .float d) reg hu)) st
  refine ⟨_, _, hw, exec_of_respond (r := decRdrsp (writeRequest reg (be32 u)) 8) rfl _, ?_⟩
  rw [encF32_of_ok hu]
  rfl

/-- Settles O13: the byte order is a bijection. -/
theorem u32EncodeAndDecodeAreInverse : Obligations.U32EncodeAndDecodeAreInverse :=
  ⟨fun u st => ⟨_, _, exec_of_respond (r := encU32 u) rfl st, exec_of_respond (r := decU32 (be32 u)) rfl _,
      unbe32_be32 u⟩,
    fun w st => ⟨_, _, exec_of_respond (r := decU32 w) rfl st, exec_of_respond (r := encU32 (unbe32 w)) rfl _,
      be32_unbe32 w⟩⟩

/-- Settles O54: each built object decodes to its row. -/
theorem builtObjectsAreTheirTableRows : Obligations.BuiltObjectsAreTheirTableRows := by
  refine ⟨fun reg st => ?_, fun reg u st => ?_, fun p d s g f st hp hd hs hg => ?_, fun u st => ?_⟩
  · exact ⟨_, exec_of_respond (r := encRdreq reg) rfl st, decodePayload_readRequest reg⟩
  · exact ⟨_, exec_of_respond (r := encWrreq reg (.uint u)) rfl st,
      decodeOfEncodeIsTheInstruction (.writeReq reg u) rfl⟩
  · refine ⟨_, exec_encArbid_of_fits f hp hd hs hg st, ?_⟩
    have h := decodeOfEncodeIsTheInstruction
      (.arbid (BitVec.ofNat 9 p) f (BitVec.ofNat 8 d) (BitVec.ofNat 8 s) (BitVec.ofNat 3 g)) rfl
    simp only [encode, BitVec.toNat_ofNat, Nat.mod_eq_of_lt (show p < 2 ^ 9 by omega),
      Nat.mod_eq_of_lt (show d < 2 ^ 8 by omega), Nat.mod_eq_of_lt (show s < 2 ^ 8 by omega),
      Nat.mod_eq_of_lt (show g < 2 ^ 3 by omega)] at h
    exact h
  · exact ⟨_, exec_of_respond (r := encU32 u) rfl st, decodeOfEncodeIsTheInstruction (.valueField u) rfl⟩

/-- The tag comparison of the user, over the response to DEC_RDRSP (R57, R75). -/
theorem expectTag_decRdrsp (tag : Byte) (pl : Payload) (len : BitVec 4) :
    expectTag tag (decRdrsp pl len) = if 8 ≤ len.toNat ∧ pl.b0 = tag then some (payloadValue pl) else none := by
  unfold decRdrsp
  by_cases hlen : len.toNat < 8
  · rw [if_pos hlen, if_neg fun h => Nat.not_le.mpr hlen h.1]
    rfl
  · simp [hlen, expectTag, Nat.le_of_not_lt hlen]

theorem readFloatReply_eq (pl : Payload) (len : BitVec 4) :
    readFloatReply pl len =
      if 8 ≤ len.toNat ∧ pl.b0 = tagFloat then some (widen (unbe32 (payloadValue pl))) else none := by
  rw [readFloatReply, expectTag_decRdrsp]
  split_ifs <;> rfl

theorem readUintReply_eq (pl : Payload) (len : BitVec 4) :
    readUintReply pl len =
      if 8 ≤ len.toNat ∧ pl.b0 = tagUint then some (unbe32 (payloadValue pl)) else none := by
  rw [readUintReply, expectTag_decRdrsp]
  split_ifs <;> rfl

/-- A command leaves a response register exactly when it is the register of its response. -/
theorem exec_eq_next_iff {i : Instr} {r : Response} (h : respond i = some r) (st : State) (x : Rsp) :
    exec i st = .next { st with rspValid := true, rsp := x } ↔ r.signals = x := by
  rw [exec_of_respond h, Host.Outcome.next.injEq]
  constructor
  · intro heq
    exact congrArg State.rsp heq
  · rintro rfl
    rfl

/-- Settles O52: the tag decides, and then the value is that of DEC_F32 or DEC_U32. -/
theorem repliesNeedTheExpectedTag : Obligations.RepliesNeedTheExpectedTag := by
  intro pl len st
  refine ⟨fun d => ?_, fun u => ?_⟩
  · rw [readFloatReply_eq, exec_eq_next_iff (r := decF32 (payloadValue pl)) rfl]
    have hsig : (decF32 (payloadValue pl)).signals = { Rsp.zero with fval := d } ↔
        widen (unbe32 (payloadValue pl)) = d := by
      simp [decF32, Response.signals, Result.signals, Rsp.zero, statusOk]
    rw [hsig, Option.ite_none_right_eq_some, Option.some.injEq, and_assoc]
    rfl
  · rw [readUintReply_eq, exec_eq_next_iff (r := decU32 (payloadValue pl)) rfl]
    have hsig : (decU32 (payloadValue pl)).signals = { Rsp.zero with uval := u } ↔
        unbe32 (payloadValue pl) = u := by
      simp [decU32, Response.signals, Result.signals, Rsp.zero, statusOk]
    rw [hsig, Option.ite_none_right_eq_some, Option.some.injEq, and_assoc]
    rfl

/-- ENC_ARBID fails or gives an identifier. -/
theorem encArbid_cases (p : Nat) (f : BitVec 1) (d s g : Nat) :
    (∃ e, encArbid p f d s g = .error e) ∨ ∃ id, encArbid p f d s g = .ok (.id id) := by
  unfold encArbid
  split_ifs <;> simp

/-- ENC_WRREQ fails or gives a payload. -/
theorem encWrreq_cases (reg : Byte) (v : WriteValue) :
    (∃ e, encWrreq reg v = .error e) ∨ ∃ pl, encWrreq reg v = .ok (.writePayload pl) := by
  unfold encWrreq
  split <;> simp

/-- Settles O53, by whether ENC_ARBID and ENC_WRREQ fail. -/
theorem framesAreIdentifierAndPayload : Obligations.FramesAreIdentifierAndPayload := by
  intro p d s g reg v st t u w ht hu hw
  cases (exec_of_respond (r := encArbid p 1 d s g) rfl st).symm.trans ht
  cases (exec_of_respond (r := encRdreq reg) rfl st).symm.trans hu
  cases (exec_of_respond (r := encWrreq reg v) rfl st).symm.trans hw
  rw [readFrame, writeFrame]
  rcases encArbid_cases p 1 d s g with ⟨e, hid⟩ | ⟨id, hid⟩ <;> rw [hid]
  · exact ⟨(if_neg e.status_ne_ok).symm, (if_neg fun h => e.status_ne_ok h.1).symm⟩
  · rcases encWrreq_cases reg v with ⟨e, hpl⟩ | ⟨pl, hpl⟩ <;> rw [hpl]
    · exact ⟨rfl, (if_neg fun h => e.status_ne_ok h.2).symm⟩
    · exact ⟨rfl, rfl⟩

end Sys2Proof.Machine
end

section
/-! Rounding to binary32 (42_value.md R80, R86): the binary32 numbers as multiples of a power of two, and why the number
that `narrow` gives is the nearest. -/

namespace Sys2Proof.Machine

/-- The value of a finite binary32 magnitude pattern (R80) in units of 2^-1074. -/
def magUnits32 (n : Nat) : Nat :=
  if n / 2 ^ 23 = 0 then n % 2 ^ 23 * 2 ^ 925 else (2 ^ 23 + n % 2 ^ 23) * 2 ^ (n / 2 ^ 23 + 924)

/-- The magnitude of the value of a finite binary64 pattern (R81) in units of 2^-1074. -/
def magUnits64 (d : F64) : Nat :=
  if exp64 d = 0 then frac64 d else (2 ^ 52 + frac64 d) * 2 ^ (exp64 d - 1)

/-- A number's value is its sign and its magnitude's (R81). -/
theorem units64_eq (d : F64) : units64 d = signFactor (sign64 d) * (magUnits64 d : Int) := rfl

/-- A built pattern's value is its sign and its magnitude's (R80). -/
theorem units32_withSign32 (s : BitVec 1) {n : Nat} (hn : n < 2 ^ 31) :
    units32 (withSign32 s n) = signFactor s * (magUnits32 n : Int) := by
  obtain ⟨hs, he, hf⟩ := withSign32_fields s hn
  rw [units32, hs, he, hf, magUnits32]

/-- A binary32 pattern is its sign and its magnitude. -/
theorem withSign32_eta (w : F32) : w = withSign32 (sign32 w) (exp32 w * 2 ^ 23 + frac32 w) := by
  obtain ⟨hs, he, hf⟩ := fields32 w
  have := w.isLt
  apply BitVec.eq_of_toNat_eq
  rw [withSign32_toNat _ (by omega)]
  omega

/-- A finite binary32 pattern is a sign and a magnitude below that of infinity (R80). -/
theorem exists_withSign32_of_finite32 {w : F32} (h : finite32 w = true) :
    ∃ s n, n < 0x7F800000 ∧ w = withSign32 s n := by
  refine ⟨_, _, ?_, withSign32_eta w⟩
  have he : exp32 w < 255 := of_decide_eq_true h
  have hf := (fields32 w).2.2
  omega

/-- A magnitude below that of infinity is finite (R80). -/
theorem finite32_withSign32 (s : BitVec 1) {n : Nat} (hn : n < 0x7F800000) : finite32 (withSign32 s n) = true := by
  obtain ⟨-, he, -⟩ := withSign32_fields s (m := n) (by omega)
  rw [finite32, he]
  exact decide_eq_true (by omega)

/-- The numbers of one binade, its upper end included, are consecutive multiples of one power of two; the subnormals
continue the lowest binade to zero (R80). -/
theorem magUnits32_add {k m : Nat} (hm : m ≤ 2 ^ 24) (hk : k = 0 ∨ 2 ^ 23 ≤ m) :
    magUnits32 (k * 2 ^ 23 + m) = m * 2 ^ (k + 925) := by
  rcases Nat.lt_or_ge m (2 ^ 23) with hlow | hhigh
  · obtain rfl : k = 0 := by omega
    rw [magUnits32, if_pos (by omega), Nat.zero_mul, Nat.zero_add, Nat.mod_eq_of_lt hlow]
  rcases Nat.lt_or_eq_of_le hm with hlt | rfl
  · rw [magUnits32, if_neg (by omega), show (k * 2 ^ 23 + m) / 2 ^ 23 = k + 1 by omega,
      show 2 ^ 23 + (k * 2 ^ 23 + m) % 2 ^ 23 = m by omega, show k + 1 + 924 = k + 925 by omega]
  · rw [magUnits32, if_neg (by omega), show (k * 2 ^ 23 + 2 ^ 24) / 2 ^ 23 = k + 2 by omega,
      show 2 ^ 23 + (k * 2 ^ 23 + 2 ^ 24) % 2 ^ 23 = 2 ^ 23 by omega,
      show k + 2 + 924 = k + 925 + 1 by omega, Nat.pow_succ]
    omega

@[simp] theorem magUnits32_zero : magUnits32 0 = 0 := by
  rw [magUnits32, if_pos (Nat.zero_div _), Nat.zero_mod, Nat.zero_mul]

/-- Every magnitude pattern is a multiple within some binade. -/
theorem exists_binade (n : Nat) : ∃ k m, n = k * 2 ^ 23 + m ∧ m < 2 ^ 24 ∧ (k = 0 ∨ 2 ^ 23 ≤ m) := by
  rcases Nat.lt_or_ge n (2 ^ 23) with h | h
  · exact ⟨0, n, by omega, by omega, .inl rfl⟩
  · exact ⟨n / 2 ^ 23 - 1, 2 ^ 23 + n % 2 ^ 23, by omega, by omega, .inr (by omega)⟩

/-- A greater magnitude pattern is a greater number. -/
theorem magUnits32_strictMono : StrictMono magUnits32 := by
  refine strictMono_nat_of_lt_succ fun n => ?_
  obtain ⟨k, m, rfl, hm, hk⟩ := exists_binade n
  rw [magUnits32_add hm.le hk, Nat.add_assoc, magUnits32_add (m := m + 1) hm (by omega)]
  exact Nat.mul_lt_mul_of_pos_right (Nat.lt_succ_self m) (Nat.two_pow_pos _)

/-- `m * 2^(k + 925)` units is `V` rounded to nearest, ties to even, to a multiple of `2^(k + 925)` units, and the
pattern `k * 2^23 + m` is that number. The last field says that the bottom of a binade, below which the numbers stand
closer, is reached from above only. -/
structure RoundsTo (V k m : Nat) : Prop where
  le : m ≤ 2 ^ 24
  normal : k = 0 ∨ 2 ^ 23 ≤ m
  upper : 2 * V ≤ 2 * (m * 2 ^ (k + 925)) + 2 ^ (k + 925)
  lower : 2 * (m * 2 ^ (k + 925)) ≤ 2 * V + 2 ^ (k + 925)
  even : (2 * V = 2 * (m * 2 ^ (k + 925)) + 2 ^ (k + 925) ∨ 2 * (m * 2 ^ (k + 925)) = 2 * V + 2 ^ (k + 925)) →
    m % 2 = 0
  bottom : k = 0 ∨ m ≠ 2 ^ 23 ∨ m * 2 ^ (k + 925) ≤ V

/-- What is at most half the least number rounds to zero. -/
theorem roundsTo_zero {V j : Nat} (h : 2 * V ≤ 2 ^ j) (hj : j ≤ 925) : RoundsTo V 0 0 where
  le := by omega
  normal := .inl rfl
  upper := by
    have hpow : 2 ^ j ≤ 2 ^ (0 + 925) := pow_le_pow_right₀ one_le_two hj
    generalize 2 ^ (0 + 925) = q at *
    omega
  lower := by
    generalize 2 ^ (0 + 925) = q
    omega
  even _ := rfl
  bottom := .inl rfl

/-- Rounding the significand rounds the number, where `shift` is the distance of the two grids (R86). -/
theorem roundsTo_roundNearestEven {sig shift j k : Nat} (hshift : 0 < shift) (hgrid : k + 925 = shift + j)
    (hlt : sig < 2 ^ 24 * 2 ^ shift) (hnormal : k = 0 ∨ 2 ^ 23 * 2 ^ shift ≤ sig) :
    RoundsTo (sig * 2 ^ j) k (roundNearestEven sig shift) := by
  obtain ⟨hupper, hlower, heven⟩ := roundNearestEven_spec sig hshift
  obtain ⟨hfloor, hceil⟩ := roundNearestEven_bounds sig shift
  rw [Nat.shiftRight_eq_div_pow] at hfloor hceil
  have hdiv : sig / 2 ^ shift < 2 ^ 24 := Nat.div_lt_of_lt_mul (by rwa [Nat.mul_comm])
  have hm : k = 0 ∨ 2 ^ 23 ≤ roundNearestEven sig shift := hnormal.imp_right fun h =>
    ((Nat.le_div_iff_mul_le (Nat.two_pow_pos shift)).mpr h).trans hfloor
  have hpos := Nat.two_pow_pos j
  have hq : 2 ^ (k + 925) = 2 ^ shift * 2 ^ j := by rw [hgrid, Nat.pow_add]
  generalize roundNearestEven sig shift = m at *
  generalize 2 ^ shift = a at *
  generalize 2 ^ j = b at *
  refine ⟨by omega, hm, ?_, ?_, fun htie => heven (htie.imp (fun h => ?_) fun h => ?_), ?_⟩
  · rw [hq]; nlinarith
  · rw [hq]; nlinarith
  · rw [hq] at h
    exact Nat.eq_of_mul_eq_mul_right hpos (by linarith)
  · rw [hq] at h
    exact Nat.eq_of_mul_eq_mul_right hpos (by linarith)
  · refine hnormal.imp_right fun h => or_iff_not_imp_left.mpr fun hbottom => ?_
    rw [not_not.mp hbottom, hq, ← Nat.mul_assoc]
    exact Nat.mul_le_mul_right b h

/-- The next magnitude pattern is a whole multiple away, or more at the upper end of the binade. -/
theorem le_magUnits32_succ {k m : Nat} (hm : m ≤ 2 ^ 24) (hk : k = 0 ∨ 2 ^ 23 ≤ m) :
    m * 2 ^ (k + 925) + 2 ^ (k + 925) ≤ magUnits32 (k * 2 ^ 23 + m + 1) := by
  rcases Nat.lt_or_eq_of_le hm with hlt | rfl
  · rw [Nat.add_assoc, magUnits32_add (m := m + 1) hlt (by omega), Nat.succ_mul]
  · rw [show k * 2 ^ 23 + 2 ^ 24 + 1 = (k + 1) * 2 ^ 23 + (2 ^ 23 + 1) by omega,
      magUnits32_add (by omega) (by omega), Nat.add_right_comm, Nat.pow_succ]
    omega

/-- Any other magnitude pattern stands a whole multiple away, or below the bottom of the binade that `V` is in. -/
theorem RoundsTo.other {V k m n : Nat} (h : RoundsTo V k m) (hne : n ≠ k * 2 ^ 23 + m) :
    m * 2 ^ (k + 925) + 2 ^ (k + 925) ≤ magUnits32 n ∨ magUnits32 n + 2 ^ (k + 925) ≤ m * 2 ^ (k + 925) ∨
      (magUnits32 n < m * 2 ^ (k + 925) ∧ m * 2 ^ (k + 925) ≤ V) := by
  obtain ⟨hle, hnormal, -, -, -, hbottom⟩ := h
  rcases Nat.lt_or_gt_of_ne hne with hlt | hgt
  · by_cases hV : m * 2 ^ (k + 925) ≤ V
    · refine .inr (.inr ⟨?_, hV⟩)
      rw [← magUnits32_add hle hnormal]
      exact magUnits32_strictMono hlt
    · have habove : k = 0 ∨ 2 ^ 23 < m := by omega
      obtain ⟨l, rfl⟩ := Nat.exists_eq_add_one_of_ne_zero (n := m) (by omega)
      have hpred : magUnits32 (k * 2 ^ 23 + l) + 2 ^ (k + 925) = (l + 1) * 2 ^ (k + 925) := by
        rw [magUnits32_add (by omega) (by omega), Nat.succ_mul]
      have hmono := magUnits32_strictMono.monotone (show n ≤ k * 2 ^ 23 + l by omega)
      omega
  · have hmono := magUnits32_strictMono.monotone (Nat.succ_le_of_lt hgt)
    exact .inl ((le_magUnits32_succ hle hnormal).trans hmono)

/-- Of a grid of numbers `q` apart, the one that `V` rounds to is the nearest; `y` is any other number of the grid, or
one that stands below `c` where `V` does not, or any number not above zero where `c` is zero. -/
theorem abs_sub_le_of_grid {V c q y : Int} (hV : 0 ≤ V) (hq : 0 < q) (hupper : 2 * V ≤ 2 * c + q)
    (hlower : 2 * c ≤ 2 * V + q) (hy : c + q ≤ y ∨ y + q ≤ c ∨ (y < c ∧ c ≤ V) ∨ (c = 0 ∧ y ≤ 0)) :
    |V - c| ≤ |V - y| ∧ (|V - c| = |V - y| → 2 * V = 2 * c + q ∨ 2 * c = 2 * V + q ∨ c = 0) := by
  rcases abs_cases (V - c) with ⟨hc, _⟩ | ⟨hc, _⟩ <;>
    rcases abs_cases (V - y) with ⟨hd, _⟩ | ⟨hd, _⟩ <;>
    rw [hc, hd] <;> omega

/-- The sign of a number does not matter to distances between numbers. -/
theorem abs_signFactor_mul_sub (s : BitVec 1) (a b : Int) :
    |signFactor s * a - signFactor s * b| = |a - b| := by
  rw [← mul_sub, abs_mul]
  rcases BitVec.eq_zero_or_eq_one s with rfl | rfl <;> simp [signFactor]

/-- Numbers of different signs. -/
theorem signFactor_of_ne {s s' : BitVec 1} (h : s' ≠ s) : signFactor s' = -signFactor s := by
  rcases BitVec.eq_zero_or_eq_one s with rfl | rfl <;> rcases BitVec.eq_zero_or_eq_one s' with rfl | rfl <;>
    simp [signFactor] at h ⊢

/-- The rounded number is at least as near as any finite binary32 number of either sign, and even in a tie (R86). -/
theorem RoundsTo.nearest {V k m : Nat} (h : RoundsTo V k m) (hw : k * 2 ^ 23 + m < 0x7F800000) (s : BitVec 1)
    {w : F32} (hfin : finite32 w = true) (hne : w ≠ withSign32 s (k * 2 ^ 23 + m)) :
    |signFactor s * V - units32 (withSign32 s (k * 2 ^ 23 + m))| ≤ |signFactor s * V - units32 w| ∧
      (|signFactor s * V - units32 (withSign32 s (k * 2 ^ 23 + m))| = |signFactor s * V - units32 w| →
        m % 2 = 0) := by
  obtain ⟨s', n, hn, rfl⟩ := exists_withSign32_of_finite32 hfin
  obtain ⟨y, hy, hgrid⟩ : ∃ y : Int, units32 (withSign32 s' n) = signFactor s * y ∧
      (((m * 2 ^ (k + 925) : Nat) : Int) + (2 ^ (k + 925) : Nat) ≤ y ∨
        y + (2 ^ (k + 925) : Nat) ≤ (m * 2 ^ (k + 925) : Nat) ∨
        (y < (m * 2 ^ (k + 925) : Nat) ∧ ((m * 2 ^ (k + 925) : Nat) : Int) ≤ V) ∨
        (((m * 2 ^ (k + 925) : Nat) : Int) = 0 ∧ y ≤ 0)) := by
    rw [units32_withSign32 _ (by omega)]
    by_cases hs : s' = s
    · subst hs
      have := h.other (n := n) (by rintro rfl; exact hne rfl)
      exact ⟨_, rfl, by omega⟩
    · refine ⟨-(magUnits32 n : Int), by rw [signFactor_of_ne hs]; ring, ?_⟩
      rcases Nat.eq_zero_or_pos m with rfl | hm
      · exact .inr (.inr (.inr ⟨by simp, by omega⟩))
      · have := Nat.le_mul_of_pos_left (2 ^ (k + 925)) hm
        omega
  rw [hy, units32_withSign32 _ (by omega), magUnits32_add h.le h.normal, abs_signFactor_mul_sub,
    abs_signFactor_mul_sub]
  have hq := Nat.two_pow_pos (k + 925)
  have hupper := h.upper
  have hlower := h.lower
  obtain ⟨hnear, htie⟩ := abs_sub_le_of_grid (V := V) (Int.natCast_nonneg V) (by exact_mod_cast hq)
    (by exact_mod_cast hupper) (by exact_mod_cast hlower) hgrid
  refine ⟨hnear, fun heq => ?_⟩
  rcases htie heq with ht | ht | ht
  · exact h.even (.inl (by exact_mod_cast ht))
  · exact h.even (.inr (by exact_mod_cast ht))
  · rw [Nat.cast_eq_zero, Nat.mul_eq_zero, or_iff_left hq.ne'] at ht
    rw [ht]

end Sys2Proof.Machine
end

section
/-! The two conversions by the class of their operand (42_value.md R86 to R89). -/

namespace Sys2Proof.Machine

/-- The magnitude pattern by its fields (R81). -/
theorem magnitude64_eq (d : F64) : magnitude64 d = exp64 d * 2 ^ 52 + frac64 d := by
  obtain ⟨-, he, hf⟩ := fields64 d
  rw [magnitude64]
  omega

theorem frac64_lt (d : F64) : frac64 d < 2 ^ 52 := by
  obtain ⟨-, -, hf⟩ := fields64 d
  omega

theorem narrow_of_nan {d : F64} (h : isNan64 d = true) : narrow d = .ok (nanNarrow d) := by
  simp only [isNan64, Bool.and_eq_true, beq_iff_eq, bne_iff_ne] at h
  rw [narrow, if_pos h]

theorem narrow_of_infinity {d : F64} (he : exp64 d = 2047) (hf : frac64 d = 0) :
    narrow d = .ok (withSign32 (sign64 d) 0x7F800000) := by
  rw [narrow, if_neg (fun h => h.2 hf), if_pos he]

theorem narrow_of_exp_zero {d : F64} (he : exp64 d = 0) : narrow d = .ok (withSign32 (sign64 d) 0) := by
  rw [narrow, if_neg (by omega), if_neg (by omega), if_pos he]

/-- The significand of a normal number, the hidden bit above its fraction (R86). -/
theorem hiddenBit_or {f : Nat} (hf : f < 2 ^ 52) : (1 <<< 52) ||| f = 2 ^ 52 + f :=
  or_eq_add_of_dvd (a := 2 ^ 52) (k := 52) (dvd_refl _) hf

/-- Below half the least binary32 number, zero (R86). -/
theorem narrowMagnitude_of_tiny {e f : Nat} (he : e ≤ 871) : narrowMagnitude e f = some 0 := by
  have hx : ¬((e : Int) - 1023 ≥ -126) := by omega
  simp only [narrowMagnitude, if_neg hx]
  exact if_pos (by omega)

/-- In the range of the binary32 subnormals (R86). -/
theorem narrowMagnitude_of_subnormal {e f : Nat} (hlo : 871 < e) (hhi : e ≤ 896) (hf : f < 2 ^ 52) :
    narrowMagnitude e f = some (roundNearestEven (2 ^ 52 + f) (926 - e)) := by
  have hx : ¬((e : Int) - 1023 ≥ -126) := by omega
  have hshift : 29 + (-126 - ((e : Int) - 1023)).toNat = 926 - e := by omega
  simp only [narrowMagnitude, hiddenBit_or hf, if_neg hx, hshift]
  exact if_neg (by omega)

/-- In the range of the binary32 normals and above (R86). -/
theorem narrowMagnitude_of_normal {e f : Nat} (he : 896 < e) (hf : f < 2 ^ 52) :
    narrowMagnitude e f =
      if (e - 897) * 2 ^ 23 + roundNearestEven (2 ^ 52 + f) 29 ≥ 0x7F800000 then none
      else some ((e - 897) * 2 ^ 23 + roundNearestEven (2 ^ 52 + f) 29) := by
  have hx : (e : Int) - 1023 ≥ -126 := by omega
  have hexp : ((e : Int) - 1023 + 126).toNat = e - 897 := by omega
  simp only [narrowMagnitude, hiddenBit_or hf, if_pos hx, hexp]
  rw [if_neg (by omega), Nat.shiftLeft_eq]

/-- The overflow midpoint: from this magnitude on, and from no smaller one, the rounded pattern reaches infinity's
(R86). -/
theorem overflow_iff {e f : Nat} (he : 896 < e) :
    (e - 897) * 2 ^ 23 + roundNearestEven (2 ^ 52 + f) 29 ≥ 0x7F800000 ↔
      0x47EFFFFFF0000000 ≤ e * 2 ^ 52 + f := by
  obtain ⟨hupper, hlower, heven⟩ := roundNearestEven_spec (2 ^ 52 + f) (shift := 29) (by omega)
  omega

/-- A finite float with a nonzero exponent field has the magnitude that its own narrows to (R86). -/
theorem narrow_of_some {d : F64} {w : Nat} (hpos : exp64 d ≠ 0) (hfin : exp64 d < 2047)
    (h : narrowMagnitude (exp64 d) (frac64 d) = some w) : narrow d = .ok (withSign32 (sign64 d) w) := by
  rw [narrow, if_neg (by omega), if_neg (by omega), if_neg hpos]
  simp only [h]

/-- A finite float whose magnitude narrows to none overflows (R86, 92 D13). -/
theorem narrow_of_none {d : F64} (hpos : exp64 d ≠ 0) (hfin : exp64 d < 2047)
    (h : narrowMagnitude (exp64 d) (frac64 d) = none) : narrow d = .error (.range .value) := by
  rw [narrow, if_neg (by omega), if_neg (by omega), if_neg hpos]
  simp only [h]
  rfl

/-- From the overflow midpoint on, a finite float raises RANGE_ERROR on VALUE (R86, 92 D13). -/
theorem narrow_of_overflow {d : F64} (hfin : exp64 d < 2047) (h : 0x47EFFFFFF0000000 ≤ magnitude64 d) :
    narrow d = .error (.range .value) := by
  have hf := frac64_lt d
  rw [magnitude64_eq] at h
  refine narrow_of_none (by omega) hfin ?_
  rw [narrowMagnitude_of_normal (by omega) hf, if_pos ((overflow_iff (by omega)).mpr h)]

/-- Below the overflow midpoint the magnitude of a normal binary64 number narrows to the binary32 magnitude that it
rounds to (R86). -/
theorem narrowMagnitude_rounds {e f : Nat} (hf : f < 2 ^ 52)
    (h : e * 2 ^ 52 + f < 0x47EFFFFFF0000000) :
    ∃ k m, k * 2 ^ 23 + m < 0x7F800000 ∧ narrowMagnitude e f = some (k * 2 ^ 23 + m) ∧
      RoundsTo ((2 ^ 52 + f) * 2 ^ (e - 1)) k m := by
  rcases Nat.lt_or_ge 896 e with hnormal | hsub
  · have hw := (overflow_iff (f := f) hnormal).not.mpr (by omega)
    refine ⟨e - 897, roundNearestEven (2 ^ 52 + f) 29, Nat.lt_of_not_le hw, ?_,
      roundsTo_roundNearestEven (by omega) (by omega) (by omega) (by omega)⟩
    rw [narrowMagnitude_of_normal hnormal hf, if_neg hw]
  rcases Nat.lt_or_ge 871 e with hmid | htiny
  · have hround : RoundsTo ((2 ^ 52 + f) * 2 ^ (e - 1)) 0 (roundNearestEven (2 ^ 52 + f) (926 - e)) := by
      refine roundsTo_roundNearestEven (by omega) (by omega) ?_ (.inl rfl)
      have : 2 ^ 29 ≤ 2 ^ (926 - e) := Nat.pow_le_pow_right (by omega) (by omega)
      omega
    have hle := hround.le
    exact ⟨0, _, by rw [Nat.zero_mul]; omega,
      by rw [narrowMagnitude_of_subnormal hmid hsub hf, Nat.zero_mul, Nat.zero_add], hround⟩
  · refine ⟨0, 0, by rw [Nat.zero_mul]; omega, by rw [narrowMagnitude_of_tiny htiny, Nat.zero_mul],
      roundsTo_zero (j := 54 + (e - 1)) ?_ (by omega)⟩
    calc 2 * ((2 ^ 52 + f) * 2 ^ (e - 1)) = (2 * (2 ^ 52 + f)) * 2 ^ (e - 1) := (Nat.mul_assoc _ _ _).symm
      _ ≤ 2 ^ 54 * 2 ^ (e - 1) := Nat.mul_le_mul_right _ (by omega)
      _ = 2 ^ (54 + (e - 1)) := (Nat.pow_add _ _ _).symm

/-- Below the overflow midpoint a finite float narrows to the binary32 number that it rounds to, with its sign (R86). -/
theorem narrow_of_finite {d : F64} (hfin : exp64 d < 2047) (h : magnitude64 d < 0x47EFFFFFF0000000) :
    ∃ k m, k * 2 ^ 23 + m < 0x7F800000 ∧ narrow d = .ok (withSign32 (sign64 d) (k * 2 ^ 23 + m)) ∧
      RoundsTo (magUnits64 d) k m := by
  have hf := frac64_lt d
  rw [magnitude64_eq] at h
  by_cases hzero : exp64 d = 0
  · refine ⟨0, 0, by rw [Nat.zero_mul]; omega, by rw [narrow_of_exp_zero hzero, Nat.zero_mul],
      roundsTo_zero (j := 53) ?_ (by omega)⟩
    rw [magUnits64, if_pos hzero]
    omega
  · obtain ⟨k, m, hlt, hsome, hround⟩ := narrowMagnitude_rounds hf h
    refine ⟨k, m, hlt, narrow_of_some hzero hfin hsome, ?_⟩
    rwa [magUnits64, if_neg hzero]

/-- The class of a binary32 pattern that is no NaN: a number, or an infinity (R80). -/
theorem finite32_or_infinity {w : F32} (h : isNan32 w = false) :
    finite32 w = true ∨ w = withSign32 (sign32 w) 0x7F800000 := by
  have he : exp32 w < 2 ^ 8 := BitVec.isLt _
  by_cases hfin : exp32 w < 255
  · exact .inl (decide_eq_true hfin)
  · refine .inr ?_
    have h255 : exp32 w = 255 := by omega
    have hf : frac32 w = 0 := by simpa [isNan32, h255] using h
    have heta := withSign32_eta w
    rwa [h255, hf] at heta

theorem widen_of_nan {w : F32} (h : isNan32 w = true) : widen w = nanWiden w := by
  simp only [isNan32, Bool.and_eq_true, beq_iff_eq, bne_iff_ne] at h
  rw [widen, if_pos h]

theorem widen_infinity (s : BitVec 1) :
    widen (withSign32 s 0x7F800000) = withSign64 s 0x7FF0000000000000 := by
  obtain ⟨hs, he, hf⟩ := withSign32_fields s (m := 0x7F800000) (by omega)
  rw [widen, hs, if_neg (fun h => h.2 hf)]
  exact if_pos he

/-- The binary64 pattern `d` is the binary32 number of sign `s` and magnitude pattern `n`, exactly (R88). -/
structure Widens (s : BitVec 1) (n : Nat) (d : F64) : Prop where
  sign : sign64 d = s
  value : magUnits64 d = magUnits32 n
  exp_le : exp64 d ≤ 1150
  lowBits : frac64 d % 2 ^ 29 = 0

/-- A binary64 pattern of exponent field `E` and a fraction whose low 29 bits are zero, by what its value must be. -/
theorem widens_of_fields {s : BitVec 1} {n E F : Nat} (hE : E ≤ 1150) (hF : F < 2 ^ 52) (hlow : F % 2 ^ 29 = 0)
    (hvalue : (if E = 0 then F else (2 ^ 52 + F) * 2 ^ (E - 1)) = magUnits32 n) :
    Widens s n (withSign64 s ((E <<< 52) ||| F)) := by
  rw [Nat.shiftLeft_eq, or_eq_add_of_dvd (Nat.dvd_mul_left _ _) hF]
  obtain ⟨hs, he, hf⟩ := withSign64_fields s (m := E * 2 ^ 52 + F) (by omega)
  have he' : exp64 (withSign64 s (E * 2 ^ 52 + F)) = E := by omega
  have hf' : frac64 (withSign64 s (E * 2 ^ 52 + F)) = F := by omega
  exact ⟨hs, by rw [magUnits64, he', hf', hvalue], by omega, by omega⟩

/-- The significand of a subnormal, its leading bit shifted to the place of the hidden bit (R88). -/
theorem shifted_significand {f k : Nat} (hk : k ≤ 52) (hle : 2 ^ k ≤ f) :
    2 ^ 52 + (f - 2 ^ k) * 2 ^ (52 - k) = f * 2 ^ (52 - k) := by
  have h52 : 2 ^ 52 = 2 ^ k * 2 ^ (52 - k) := by rw [← Nat.pow_add, Nat.add_sub_cancel' hk]
  rw [h52, ← Nat.add_mul, Nat.add_sub_cancel' hle]

/-- A binary32 subnormal is a normal binary64 number (R88). -/
theorem widens_subnormal (s : BitVec 1) {n k : Nat} (hn : n < 2 ^ 23) (hle : 2 ^ k ≤ n) (hlt : n < 2 ^ (k + 1)) :
    Widens s n (withSign64 s (((k + 874) <<< 52) ||| ((n - (1 <<< k)) <<< (52 - k)))) := by
  have hk : k < 23 := (Nat.pow_lt_pow_iff_right (by omega)).mp (hle.trans_lt hn)
  have hsig := shifted_significand (by omega) hle
  have hup : n * 2 ^ (52 - k) < 2 ^ 53 := by
    calc n * 2 ^ (52 - k) < 2 ^ (k + 1) * 2 ^ (52 - k) := Nat.mul_lt_mul_of_pos_right hlt (Nat.two_pow_pos _)
      _ = 2 ^ 53 := by rw [← Nat.pow_add]; congr 1; omega
  rw [Nat.one_shiftLeft, Nat.shiftLeft_eq (n - 2 ^ k)]
  refine widens_of_fields (by omega) (by omega) ?_ ?_
  · exact Nat.mod_eq_zero_of_dvd ((Nat.pow_dvd_pow 2 (by omega)).mul_left _)
  · have hunits : magUnits32 n = n * 2 ^ 925 := by
      have h := magUnits32_add (k := 0) (m := n) (by omega) (.inl rfl)
      rwa [Nat.zero_mul, Nat.zero_add, Nat.zero_add] at h
    have hexp : 52 - k + (k + 874 - 1) = 925 := by omega
    rw [if_neg (Nat.succ_ne_zero _), hsig, Nat.mul_assoc, ← pow_add, hexp, hunits]

/-- A binary32 normal keeps its exponent and its fraction (R88). -/
theorem widens_normal (s : BitVec 1) {n : Nat} (hlo : n / 2 ^ 23 ≠ 0) (hn : n < 0x7F800000) :
    Widens s n (withSign64 s (((n / 2 ^ 23 + 896) <<< 52) ||| ((n % 2 ^ 23) <<< 29))) := by
  rw [Nat.shiftLeft_eq (n % 2 ^ 23)]
  refine widens_of_fields (by omega) (by omega) (by omega) ?_
  rw [if_neg (by omega), magUnits32, if_neg hlo,
    show 2 ^ 52 + n % 2 ^ 23 * 2 ^ 29 = (2 ^ 23 + n % 2 ^ 23) * 2 ^ 29 by omega, Nat.mul_assoc, ← Nat.pow_add,
    show 29 + (n / 2 ^ 23 + 896 - 1) = n / 2 ^ 23 + 924 by omega]

/-- Every binary32 number widens exactly (R88). -/
theorem widens_widen (s : BitVec 1) {n : Nat} (hn : n < 0x7F800000) : Widens s n (widen (withSign32 s n)) := by
  obtain ⟨hs, he, hf⟩ := withSign32_fields s (m := n) (by omega)
  rw [widen, hs, he, hf, if_neg (by omega), if_neg (by omega)]
  split_ifs with hzero hsub
  · obtain rfl : n = 0 := by omega
    exact widens_of_fields (E := 0) (F := 0) (by omega) (by omega) (by omega) (by simp)
  · rw [Nat.mod_eq_of_lt (by omega)]
    exact widens_subnormal s (by omega) (Nat.log2_self_le (by omega)) Nat.lt_log2_self
  · exact widens_normal s hsub hn

end Sys2Proof.Machine
end

section
/-! The float operations (42_value.md section 3): which floats encode and to what, and the exactness of decoding. -/

namespace Sys2Proof.Machine

theorem exp64_le (d : F64) : exp64 d ≤ 2047 := by
  obtain ⟨-, he, -⟩ := fields64 d
  omega

/-- A NaN, an infinity, and a finite float below the overflow midpoint narrow (R86). -/
theorem exists_narrow_ok {d : F64} (h : exp64 d = 2047 ∨ magnitude64 d < 0x47EFFFFFF0000000) :
    ∃ u, narrow d = .ok u := by
  by_cases he : exp64 d = 2047
  · by_cases hf : frac64 d = 0
    · exact ⟨_, narrow_of_infinity he hf⟩
    · exact ⟨_, narrow_of_nan (by simp [isNan64, he, hf])⟩
  · obtain ⟨k, m, -, hok, -⟩ := narrow_of_finite (Nat.lt_of_le_of_ne (exp64_le d) he) (h.resolve_left he)
    exact ⟨_, hok⟩

/-- A float that does not narrow is a number from the overflow midpoint on (R86). -/
theorem overflow_of_narrow_error {d : F64} {e : Err} (h : narrow d = .error e) :
    exp64 d < 2047 ∧ 0x47EFFFFFF0000000 ≤ magnitude64 d := by
  by_contra hcon
  have hle := exp64_le d
  obtain ⟨u, hu⟩ := exists_narrow_ok (d := d) (by omega)
  cases hu.symm.trans h

/-- ENC_F32 and ENC_WRREQ of a float that narrows carry the same four bytes (R73, R90). -/
theorem exec_of_narrow_ok {d : F64} {u : BitVec 32} (h : narrow d = .ok u) (st : State) :
    exec (.encF32 d) st = .next (st.hold { Rsp.zero with raw := be32 u }) ∧
    ∀ reg, exec (.encWrreq reg (.float d)) st =
      .next (st.hold { Rsp.zero with pl := writeRequest reg (be32 u) }) :=
  ⟨exec_of_respond (i := .encF32 d) (congrArg some (encF32_of_ok h)) st,
    fun reg => exec_of_respond (i := .encWrreq reg (.float d))
      (congrArg some (encWrreq_of_ok (v := .float d) reg h)) st⟩

/-- Settles O14: a float narrows, or it is a number from the overflow midpoint on. -/
theorem floatsEncodeBelowTheOverflowMidpoint : Obligations.FloatsEncodeBelowTheOverflowMidpoint := by
  intro d reg st
  refine ⟨fun henc => ?_, fun hover => ?_⟩
  · obtain ⟨u, hu⟩ := exists_narrow_ok henc
    obtain ⟨hf32, hwrreq⟩ := exec_of_narrow_ok hu st
    exact ⟨be32 u, hf32, hwrreq reg⟩
  · have hle := exp64_le d
    have herr := narrow_of_overflow (d := d) (by omega) (by omega)
    exact ⟨exec_of_respond (i := .encF32 d) (congrArg some (encF32_of_error herr)) st,
      exec_of_respond (i := .encWrreq reg (.float d))
        (congrArg some (encWrreq_of_error (v := .float d) reg herr)) st⟩

/-- The last bit of a built pattern is that of its magnitude. -/
theorem withSign32_lastBit (s : BitVec 1) {n : Nat} (hn : n < 2 ^ 31) (heven : n % 2 = 0) :
    (withSign32 s n).getLsbD 0 = false := by
  rw [BitVec.getLsbD, withSign32_toNat s hn, Nat.testBit_zero]
  exact decide_eq_false (by omega)

/-- Settles O15: `narrow` gives the number that the operand rounds to, and that number is the nearest. -/
theorem encF32RoundsToNearestEven : Obligations.EncF32RoundsToNearestEven := by
  intro d st hfin hmag
  obtain ⟨k, m, hlt, hok, hround⟩ := narrow_of_finite (of_decide_eq_true hfin) hmag
  refine ⟨be32 (withSign32 (sign64 d) (k * 2 ^ 23 + m)), (exec_of_narrow_ok hok st).1, ?_⟩
  rw [unbe32_be32, units64_eq]
  refine ⟨finite32_withSign32 _ hlt, (withSign32_fields _ (by omega)).1, fun w hw => ?_⟩
  by_cases hne : w = withSign32 (sign64 d) (k * 2 ^ 23 + m)
  · exact ⟨by rw [hne], fun h => absurd hne h⟩
  · obtain ⟨hnear, heven⟩ := hround.nearest hlt (sign64 d) hw hne
    exact ⟨hnear, fun _ htie => withSign32_lastBit _ (by omega) (by have := heven htie; omega)⟩

/-- The bytes of the two zeros and of the two infinities (R29, R80). -/
theorem be32_zero_and_infinity (s : BitVec 1) :
    be32 (withSign32 s 0) = ⟨if s = 1 then 0x80 else 0x00, 0x00, 0x00, 0x00⟩ ∧
    be32 (withSign32 s 0x7F800000) = ⟨if s = 1 then 0xFF else 0x7F, 0x80, 0x00, 0x00⟩ := by
  revert s
  decide

/-- Settles O16, by the two arms of `narrow` that keep the sign alone. -/
theorem encF32KeepsZeroAndInfinity : Obligations.EncF32KeepsZeroAndInfinity := by
  intro d st
  obtain ⟨hzero, hinf⟩ := be32_zero_and_infinity (sign64 d)
  rw [← hzero, ← hinf]
  exact ⟨fun he => (exec_of_narrow_ok (narrow_of_exp_zero he) st).1,
    fun he hf => (exec_of_narrow_ok (narrow_of_infinity he hf) st).1⟩

/-- Settles O17: each conversion of a NaN is a drawn NaN, whichever it is. -/
theorem nansStayNans : Obligations.NansStayNans := by
  refine fun st => ⟨fun d hd => ?_, fun v hv => ?_⟩
  · obtain ⟨hf32, hwrreq⟩ := exec_of_narrow_ok (narrow_of_nan hd) st
    exact ⟨be32 (nanNarrow d), by rw [unbe32_be32, nanNarrow_isNan], hf32, hwrreq⟩
  · refine ⟨nanWiden (unbe32 v), nanWiden_isNan _, ?_⟩
    rw [← widen_of_nan hv]
    exact exec_of_respond (r := decF32 v) rfl st

/-- Settles O18: a number widens exactly. -/
theorem decF32IsExact : Obligations.DecF32IsExact := by
  intro v st hfin
  refine ⟨widen (unbe32 v), exec_of_respond (r := decF32 v) rfl st, ?_⟩
  obtain ⟨s, n, hn, hw⟩ := exists_withSign32_of_finite32 hfin
  obtain ⟨hsign, hvalue, hexp, hlow⟩ := widens_widen s hn
  rw [hw]
  refine ⟨decide_eq_true (by omega), ?_, ?_, hlow⟩
  · rw [hsign, (withSign32_fields s (by omega)).1]
  · rw [units64_eq, units32_withSign32 s (by omega), hsign, hvalue]

/-- Settles O19, by the arms of `widen` that keep the sign alone. -/
theorem decF32KeepsZeroAndInfinity : Obligations.DecF32KeepsZeroAndInfinity := by
  intro st
  have hdec (v : ValueField) (d : F64) (h : widen (unbe32 v) = d) :
      exec (.decF32 v) st = .next (st.hold { Rsp.zero with fval := d }) :=
    h ▸ exec_of_respond (r := decF32 v) rfl st
  exact ⟨hdec _ _ rfl, hdec _ _ rfl, hdec _ _ rfl, hdec _ _ rfl⟩

/-- A number is the number that it rounds to. -/
theorem RoundsTo.eq_of_value {k m n : Nat} (h : RoundsTo (magUnits32 n) k m) : n = k * 2 ^ 23 + m := by
  by_contra hne
  have hother := h.other hne
  have hupper := h.upper
  have hlower := h.lower
  have hq := Nat.two_pow_pos (k + 925)
  omega

/-- Narrowing undoes widening, but for NaNs (R86, R88). -/
theorem narrow_widen {w : F32} (h : isNan32 w = false) : narrow (widen w) = .ok w := by
  rcases finite32_or_infinity h with hfin | hinf
  · obtain ⟨s, n, hn, rfl⟩ := exists_withSign32_of_finite32 hfin
    obtain ⟨hsign, hvalue, hexp, hlow⟩ := widens_widen s hn
    have hmag : magnitude64 (widen (withSign32 s n)) < 0x47EFFFFFF0000000 := by
      have := frac64_lt (widen (withSign32 s n))
      rw [magnitude64_eq]
      omega
    obtain ⟨k, m, -, hok, hround⟩ := narrow_of_finite (by omega) hmag
    rw [hvalue] at hround
    rw [hok, hsign, ← hround.eq_of_value]
  · rw [hinf, widen_infinity]
    obtain ⟨hs, he, hf⟩ := withSign64_fields (sign32 w) (m := 0x7FF0000000000000) (by omega)
    rw [narrow_of_infinity he hf, hs]

/-- Settles O20: narrowing undoes widening. -/
theorem f32FieldsSurviveDecodeAndEncode : Obligations.F32FieldsSurviveDecodeAndEncode := by
  intro v st hnan
  refine ⟨_, _, exec_of_respond (r := decF32 v) rfl st, (exec_of_narrow_ok (narrow_widen hnan) _).1, ?_⟩
  rw [be32_unbe32]
  rfl

/-- What widens to no NaN is no NaN (R88, R89). -/
theorem isNan32_of_widen {w : F32} (h : isNan64 (widen w) = false) : isNan32 w = false := by
  by_contra hw
  rw [Bool.not_eq_false] at hw
  rw [widen_of_nan hw, nanWiden_isNan] at h
  cases h

/-- Settles O21: a float that some value field decodes to is narrowed back to that field. -/
theorem floatsAreRecoveredExactlyWhenRepresentable : Obligations.FloatsAreRecoveredExactlyWhenRepresentable := by
  intro d st t u hnan henc _ hdec
  cases (exec_of_respond (r := decF32 t.rsp.raw) rfl t).symm.trans hdec
  constructor
  · intro hback
    exact ⟨t.rsp.raw, _, exec_of_respond (r := decF32 t.rsp.raw) rfl st, hback⟩
  · rintro ⟨v, w, hw, rfl⟩
    cases (exec_of_respond (r := decF32 v) rfl st).symm.trans hw
    have hnarrow : narrow (widen (unbe32 v)) = .ok (unbe32 v) := narrow_widen (isNan32_of_widen hnan)
    cases (exec_of_narrow_ok hnarrow st).1.symm.trans henc
    exact congrArg (fun field => widen (unbe32 field)) (be32_unbe32 v)

/-- Status 1 is the code of RANGE_ERROR and of no other response (R101). -/
theorem Response.signals_status_eq_one_iff (r : Response) :
    r.signals.status = 1 ↔ ∃ field, r = .error (.range field) := by
  cases r with
  | ok x => simp [Response.signals]
  | error e => cases e <;> simp [Response.signals, Err.status]

/-- ENC_ARBID raises RANGE_ERROR exactly where an operand does not fit its field (R61, R103). -/
theorem encArbid_range_iff (p : Nat) (f : BitVec 1) (d s g : Nat) :
    (∃ field, encArbid p f d s g = .error (.range field)) ↔ 0x1FF < p ∨ 0xFF < d ∨ 0xFF < s ∨ 7 < g := by
  unfold encArbid
  split_ifs <;> simp <;> omega

/-- A float fails to narrow exactly where it is a number from the overflow midpoint on, and then by RANGE_ERROR
(R86, R103). -/
theorem narrow_range_iff (d : F64) :
    (∃ field, narrow d = .error (.range field)) ↔ finite64 d = true ∧ 0x47EFFFFFF0000000 ≤ magnitude64 d := by
  constructor
  · rintro ⟨field, h⟩
    obtain ⟨hfin, hmag⟩ := overflow_of_narrow_error h
    exact ⟨decide_eq_true hfin, hmag⟩
  · rintro ⟨hfin, hmag⟩
    exact ⟨_, narrow_of_overflow (of_decide_eq_true hfin) hmag⟩

theorem encF32_range_iff (d : F64) :
    (∃ field, encF32 d = .error (.range field)) ↔ ∃ field, narrow d = .error (.range field) := by
  cases h : narrow d with
  | ok u => simp [encF32_of_ok h]
  | error e => simp [encF32_of_error h]

theorem encWrreq_range_iff (reg : Byte) (v : WriteValue) :
    (∃ field, encWrreq reg v = .error (.range field)) ↔ ∃ field, writePattern v = .error (.range field) := by
  cases h : writePattern v with
  | ok u => simp [encWrreq_of_ok reg h]
  | error e => simp [encWrreq_of_error reg h]

/-- The two causes of RANGE_ERROR (R103). -/
theorem respond_range_iff (i : Instr) :
    (∃ field, respond i = some (.error (.range field))) ↔
      (∃ p f d s g, i = .encArbid p f d s g ∧ (0x1FF < p ∨ 0xFF < d ∨ 0xFF < s ∨ 7 < g)) ∨
      (∃ d, (i = .encF32 d ∨ ∃ reg, i = .encWrreq reg (.float d)) ∧
        finite64 d = true ∧ 0x47EFFFFFF0000000 ≤ magnitude64 d) := by
  constructor
  · rintro ⟨field, h⟩
    cases i <;> simp only [respond, Option.some.injEq, reduceCtorEq] at h
    case encArbid p f d s g => exact .inl ⟨p, f, d, s, g, rfl, (encArbid_range_iff p f d s g).mp ⟨field, h⟩⟩
    case encF32 d =>
      exact .inr ⟨d, .inl rfl, (narrow_range_iff d).mp ((encF32_range_iff d).mp ⟨field, h⟩)⟩
    case encWrreq reg v =>
      have hv := (encWrreq_range_iff reg v).mp ⟨field, h⟩
      cases v with
      | float d => exact .inr ⟨d, .inr ⟨reg, rfl⟩, (narrow_range_iff d).mp hv⟩
      | uint u => simp [writePattern] at hv
    case decRdrsp =>
      unfold decRdrsp at h
      split_ifs at h
      cases h
    all_goals cases h
  · rintro (⟨p, f, d, s, g, rfl, hmisfit⟩ | ⟨d, rfl | ⟨reg, rfl⟩, hover⟩)
    · exact ((encArbid_range_iff p f d s g).mpr hmisfit).imp fun _ => congrArg some
    · exact ((encF32_range_iff d).mpr ((narrow_range_iff d).mpr hover)).imp fun _ => congrArg some
    · exact ((encWrreq_range_iff reg (.float d)).mpr ((narrow_range_iff d).mpr hover)).imp fun _ => congrArg some

/-- Settles O24: the status of the state reached is that of the command's response, and `respond_range_iff` says which
commands answer RANGE_ERROR. -/
theorem rangeErrorHasOnlyTwoCauses : Obligations.RangeErrorHasOnlyTwoCauses := by
  intro i st t hcmd hexec
  obtain ⟨r, hr⟩ := respond_of_format_cmd hcmd
  rw [exec_of_respond hr] at hexec
  cases hexec
  simp only [State.hold_rsp, Response.signals_status_eq_one_iff, ← respond_range_iff, hr, Option.some.injEq]

end Sys2Proof.Machine
end
